-- ==== Sys2Proof/Word.lean ====
section
/-! DEFINITION. The word and byte types of the surface-address generator (spec/00_scope.md R11). -/

namespace Sys2Proof

/-- A command or response word: 32 bits, bit 0 the least significant (R11). -/
abbrev Word := BitVec 32

/-- A byte of the data memory (spec/20_memory.md R41). -/
abbrev Byte := BitVec 8

end Sys2Proof
end

