-- ==== Sys2Proof/Config.lean ====
section
/-! DEFINITION. What an implementation fixes: the shape of the hardware profile (spec/00_scope.md R6 to R8), the
address width, and the source of the free values. The profile's values stand in Machine/Tables.lean. -/

namespace Sys2Proof.Config

/-- The hardware profile, nine constants (R6). Every formula takes it as an argument (spec/40_tables.md R91). -/
structure Profile where
  numPipes : Nat
  numBanks : Nat
  pipeInterleaveBytes : Nat
  rowSize : Nat
  swapSize : Nat
  splitSize : Nat
  numPipeBits : Nat
  numBankBits : Nat
  numGroupBits : Nat
deriving DecidableEq, Repr

/-- What R8 requires of any profile a model is given. -/
def Profile.wf (hw : Profile) : Bool :=
  2 ^ hw.numPipeBits == hw.numPipes && 2 ^ hw.numBankBits == hw.numBanks
    && 2 ^ hw.numGroupBits == hw.pipeInterleaveBytes
    && (hw.numBanks == 4 || hw.numBanks == 8)
    && 0 < hw.numPipeBits && 0 < hw.numBankBits && 0 < hw.numGroupBits
    && 0 < hw.rowSize && 0 < hw.swapSize && 0 < hw.splitSize

/-- `ADDR_BITS`, the width of a memory address (spec/20_memory.md R41). -/
def addrBits : Nat := 32

/-- The free values: the value of slot `slot` at draw number `draw`. It has no body, so nothing can be proved of it.
REQ, RSP and the loop state hold such values whenever the spec leaves them unspecified (spec/93_implementation_defined.md
U1, log entry 6). -/
opaque freeBits (draw slot : Nat) : Nat

end Sys2Proof.Config
end

