-- ==== Sys2Proof/Syntax.lean ====
section
/-! DEFINITION. The commands and their operands (spec/30_encoding.md R62 to R65, R69), the operand latch REQ
(spec/10_state.md R24) and the tile-mode codes (spec/40_tables.md R97). -/

namespace Sys2Proof

/-- The eight packet formats (R62 to R65). -/
inductive Format where
  | Z | F | M | P | G | D | A | S
deriving DecidableEq, Repr

/-- The fifteen opcodes (R69). -/
inductive Op where
  | rdprof | fmtinfo | tmprop
  | tmresolve
  | mtgeom | align | bswidth | surfinfo
  | addrlin | pixidx | addrmic | pipebank | addrmac
  | swz | dswz
deriving DecidableEq, Repr

/-- The M-word, field by field from bit 0 up (R63). `rsv` is bits 23:21, which must be zero (R71). -/
structure MWord where
  tileMode : BitVec 5
  dim : BitVec 3
  mipLevel : BitVec 4
  sampleCount : BitVec 4
  isDepthBuffer : BitVec 1
  pipeSwizzle : BitVec 1
  bankSwizzle : BitVec 2
  isBC : BitVec 1
  rsv : BitVec 3
  bpp : BitVec 8
deriving DecidableEq, Repr

/-- The operand words 2 to 8 of format A (R64). -/
structure AddrArgs where
  x : Word
  y : Word
  slice : Word
  sample : Word
  pitch : Word
  height : Word
  depthSlices : Word
deriving DecidableEq, Repr

/-- The operand words 2 to 11 of format S (R65). -/
structure SwzArgs where
  width : Word
  height : Word
  pitch : Word
  surfHeight : Word
  surfDepth : Word
  swizzleValue : Word
  linBase : Word
  linLen : Word
  tiledBase : Word
  tiledLen : Word
deriving DecidableEq, Repr

/-- The fifteen commands, each with every operand its packet carries, the ignored ones (R72) among them. -/
inductive Instr where
  | rdprof
  | fmtinfo (formatCode : Word)
  | tmprop (m : MWord)
  | tmresolve (m : MWord) (width height depth : Word)
  | mtgeom (m : MWord)
  | align (m : MWord)
  | bswidth (m : MWord) (pitch : Word)
  | surfinfo (m : MWord) (width height depth formatCode : Word)
  | addrlin (m : MWord) (a : AddrArgs)
  | pixidx (m : MWord) (x y z : Word)
  | addrmic (m : MWord) (a : AddrArgs)
  | pipebank (m : MWord) (a : AddrArgs)
  | addrmac (m : MWord) (a : AddrArgs)
  | swz (m : MWord) (a : SwzArgs)
  | dswz (m : MWord) (a : SwzArgs)
deriving DecidableEq, Repr

/-- REQ, the operand latch (spec/10_state.md R24). The M-word's fields stand together in `m`; `slice` is also PIXIDX's
`z`, `surfHeight` is format A's `height`, `surfDepth` is format A's `depthSlices` (R64). -/
structure Req where
  opc : BitVec 8
  m : MWord
  formatCode : Word
  width : Word
  height : Word
  depth : Word
  x : Word
  y : Word
  slice : Word
  sample : Word
  pitch : Word
  surfHeight : Word
  surfDepth : Word
  swizzleValue : Word
  linBase : Word
  linLen : Word
  tiledBase : Word
  tiledLen : Word
deriving DecidableEq, Repr

/-- The seventeen tile modes, by the informative names of spec/40_tables.md R97, in code order. -/
inductive TileMode where
  | linearGeneral | linearAligned
  | tiled1DThin1 | tiled1DThick
  | tiled2DThin1 | tiled2DThin2 | tiled2DThin4 | tiled2DThick
  | tiled2BThin1 | tiled2BThin2 | tiled2BThin4 | tiled2BThick
  | tiled3DThin1 | tiled3DThick
  | tiled3BThin1 | tiled3BThick
  | linearSpecial
deriving DecidableEq, Repr

/-- The three families of tile modes, simplest first (R96, R99). -/
inductive Family where
  | linear | micro | macroTiled
deriving DecidableEq, Repr

end Sys2Proof
end

