-- ==== Sys2Proof/WellFormed.lean ====
section
/-! DEFINITION. Which commands are well formed: the reserved bits of the M-word are zero (spec/30_encoding.md R63, R71).
A packet whose reserved bits are not zero still decodes; its command answers IllegalCommand. -/

namespace Sys2Proof

/-- The M-word of a command, where its format has one. -/
def Instr.mword? : Instr → Option MWord
  | .rdprof => none
  | .fmtinfo _ => none
  | .tmprop m => some m
  | .tmresolve m _ _ _ => some m
  | .mtgeom m => some m
  | .align m => some m
  | .bswidth m _ => some m
  | .surfinfo m _ _ _ _ => some m
  | .addrlin m _ => some m
  | .pixidx m _ _ _ => some m
  | .addrmic m _ => some m
  | .pipebank m _ => some m
  | .addrmac m _ => some m
  | .swz m _ => some m
  | .dswz m _ => some m

/-- The one check of an encoding beyond its header: bits 23:21 of the M-word are zero (R63). -/
def Instr.wellFormed (i : Instr) : Bool :=
  match i.mword? with
  | none => true
  | some m => m.rsv == 0#3

end Sys2Proof
end

