-- ==== Sys2Proof/Decode.lean ====
section
/-! DEFINITION. Decoding packets of words into commands, and encoding commands as packets (spec/30_encoding.md). The
decoder is the operand latch itself: words are latched into REQ one after the other (spec/10_state.md R24), and the
command is read from REQ. -/

namespace Sys2Proof

/-- `OPC`, bits 31:24 of the header (R69). -/
def Op.code : Op → BitVec 8
  | .rdprof => 0x01#8
  | .fmtinfo => 0x02#8
  | .tmprop => 0x03#8
  | .tmresolve => 0x10#8
  | .mtgeom => 0x20#8
  | .align => 0x21#8
  | .bswidth => 0x22#8
  | .surfinfo => 0x23#8
  | .addrlin => 0x30#8
  | .pixidx => 0x31#8
  | .addrmic => 0x32#8
  | .pipebank => 0x33#8
  | .addrmac => 0x34#8
  | .swz => 0x40#8
  | .dswz => 0x41#8

/-- The fifteen opcodes in the order of R69's table. -/
def Op.all : List Op :=
  [.rdprof, .fmtinfo, .tmprop, .tmresolve, .mtgeom, .align, .bswidth, .surfinfo,
   .addrlin, .pixidx, .addrmic, .pipebank, .addrmac, .swz, .dswz]

/-- The header word: the opcode above 24 zero bits (R62). -/
def Op.header (op : Op) : Word := op.code ++ 0#24

/-- The packet format of each opcode (R69). -/
def Op.format : Op → Format
  | .rdprof => .Z
  | .fmtinfo => .F
  | .tmprop | .mtgeom | .align => .M
  | .bswidth => .P
  | .tmresolve | .pixidx => .G
  | .surfinfo => .D
  | .addrlin | .addrmic | .pipebank | .addrmac => .A
  | .swz | .dswz => .S

/-- The number of operand words of a format: its length in words less the header (the table before R62). -/
def Format.operandWords : Format → Nat
  | .Z => 0
  | .F => 1
  | .M => 1
  | .P => 2
  | .G => 4
  | .D => 5
  | .A => 8
  | .S => 11

/-- The opcode with a given code, where there is one. -/
def Op.ofCode (c : BitVec 8) : Option Op := Op.all.find? fun op => op.code == c

/-- The opcode byte of a word taken as a header (R62). -/
def headerOpc (w : Word) : BitVec 8 := w.extractLsb' 24 8

/-- A legal header equals one of the fifteen header words (R69, R70). -/
def Op.ofHeader (w : Word) : Option Op := Op.all.find? fun op => op.header == w

/-- The M-word's fields, unsigned, from their bits (R63, R68). -/
def MWord.ofWord (w : Word) : MWord where
  tileMode := w.extractLsb' 0 5
  dim := w.extractLsb' 5 3
  mipLevel := w.extractLsb' 8 4
  sampleCount := w.extractLsb' 12 4
  isDepthBuffer := w.extractLsb' 16 1
  pipeSwizzle := w.extractLsb' 17 1
  bankSwizzle := w.extractLsb' 18 2
  isBC := w.extractLsb' 20 1
  rsv := w.extractLsb' 21 3
  bpp := w.extractLsb' 24 8

/-- The word whose fields are those of `m` (R63). -/
def MWord.toWord (m : MWord) : Word :=
  m.bpp ++ m.rsv ++ m.isBC ++ m.bankSwizzle ++ m.pipeSwizzle ++ m.isDepthBuffer ++ m.sampleCount ++ m.mipLevel
    ++ m.dim ++ m.tileMode

/-- REQ with every bit zero. -/
def Req.zero : Req where
  opc := 0#8
  m := MWord.ofWord 0#32
  formatCode := 0#32
  width := 0#32
  height := 0#32
  depth := 0#32
  x := 0#32
  y := 0#32
  slice := 0#32
  sample := 0#32
  pitch := 0#32
  surfHeight := 0#32
  surfDepth := 0#32
  swizzleValue := 0#32
  linBase := 0#32
  linLen := 0#32
  tiledBase := 0#32
  tiledLen := 0#32

/-- Word `k` of a packet (the header is word 0) arrives: it goes into its field of REQ (R62 to R65). -/
def Req.latch (op : Op) (k : Nat) (w : Word) (r : Req) : Req :=
  match op.format, k with
  | .F, 1 => { r with formatCode := w }
  | .M, 1 | .P, 1 | .G, 1 | .D, 1 | .A, 1 | .S, 1 => { r with m := MWord.ofWord w }
  | .P, 2 => { r with pitch := w }
  | .G, 2 => if op = .pixidx then { r with x := w } else { r with width := w }
  | .G, 3 => if op = .pixidx then { r with y := w } else { r with height := w }
  | .G, 4 => if op = .pixidx then { r with slice := w } else { r with depth := w }
  | .D, 2 => { r with width := w }
  | .D, 3 => { r with height := w }
  | .D, 4 => { r with depth := w }
  | .D, 5 => { r with formatCode := w }
  | .A, 2 => { r with x := w }
  | .A, 3 => { r with y := w }
  | .A, 4 => { r with slice := w }
  | .A, 5 => { r with sample := w }
  | .A, 6 => { r with pitch := w }
  | .A, 7 => { r with surfHeight := w }
  | .A, 8 => { r with surfDepth := w }
  | .S, 2 => { r with width := w }
  | .S, 3 => { r with height := w }
  | .S, 4 => { r with pitch := w }
  | .S, 5 => { r with surfHeight := w }
  | .S, 6 => { r with surfDepth := w }
  | .S, 7 => { r with swizzleValue := w }
  | .S, 8 => { r with linBase := w }
  | .S, 9 => { r with linLen := w }
  | .S, 10 => { r with tiledBase := w }
  | .S, 11 => { r with tiledLen := w }
  | _, _ => r

/-- The words `ws` arrive one after the other, the first of them as word `k` of the packet. -/
def Req.latchAll (op : Op) : Nat → List Word → Req → Req
  | _, [], r => r
  | k, w :: ws, r => Req.latchAll op (k + 1) ws (r.latch op k w)

/-- The header arrives: REQ takes the opcode (R24). -/
def Req.latchHeader (op : Op) (r : Req) : Req := { r with opc := op.code }

/-- The operands of format A, as REQ holds them (R64). -/
def Req.addrArgs (r : Req) : AddrArgs where
  x := r.x
  y := r.y
  slice := r.slice
  sample := r.sample
  pitch := r.pitch
  height := r.surfHeight
  depthSlices := r.surfDepth

/-- The operands of format S, as REQ holds them (R65). -/
def Req.swzArgs (r : Req) : SwzArgs where
  width := r.width
  height := r.height
  pitch := r.pitch
  surfHeight := r.surfHeight
  surfDepth := r.surfDepth
  swizzleValue := r.swizzleValue
  linBase := r.linBase
  linLen := r.linLen
  tiledBase := r.tiledBase
  tiledLen := r.tiledLen

/-- The command of opcode `op` whose operands REQ holds. -/
def Req.instrOf (r : Req) : Op → Instr
  | .rdprof => .rdprof
  | .fmtinfo => .fmtinfo r.formatCode
  | .tmprop => .tmprop r.m
  | .tmresolve => .tmresolve r.m r.width r.height r.depth
  | .mtgeom => .mtgeom r.m
  | .align => .align r.m
  | .bswidth => .bswidth r.m r.pitch
  | .surfinfo => .surfinfo r.m r.width r.height r.depth r.formatCode
  | .addrlin => .addrlin r.m r.addrArgs
  | .pixidx => .pixidx r.m r.x r.y r.slice
  | .addrmic => .addrmic r.m r.addrArgs
  | .pipebank => .pipebank r.m r.addrArgs
  | .addrmac => .addrmac r.m r.addrArgs
  | .swz => .swz r.m r.swzArgs
  | .dswz => .dswz r.m r.swzArgs

/-- The command REQ holds, where its opcode is one of the fifteen. -/
def Req.instr? (r : Req) : Option Instr := (Op.ofCode r.opc).map r.instrOf

/-- Why a list of words is no packet. -/
inductive DecodeError where
  /-- There is no word. -/
  | noWord
  /-- Word 0 is none of the fifteen header words (R70). -/
  | illegalHeader (w : Word)
  /-- The format owes more operand words than there are (spec/70_reset_and_hazards.md R235). -/
  | incomplete (op : Op)
deriving DecidableEq, Repr

/-- Decodes the packet at the front of `ws`; the rest of the words comes back. -/
def decode (ws : List Word) : Except DecodeError (Instr × List Word) :=
  match ws with
  | [] => .error .noWord
  | h :: rest =>
    match Op.ofHeader h with
    | none => .error (.illegalHeader h)
    | some op =>
      if rest.length < op.format.operandWords then .error (.incomplete op)
      else
        .ok ((Req.latchAll op 1 (rest.take op.format.operandWords) (Req.zero.latchHeader op)).instrOf op,
          rest.drop op.format.operandWords)

/-- The operand words 2 to 8 of format A (R64). -/
def AddrArgs.words (a : AddrArgs) : List Word :=
  [a.x, a.y, a.slice, a.sample, a.pitch, a.height, a.depthSlices]

/-- The operand words 2 to 11 of format S (R65). -/
def SwzArgs.words (a : SwzArgs) : List Word :=
  [a.width, a.height, a.pitch, a.surfHeight, a.surfDepth, a.swizzleValue, a.linBase, a.linLen, a.tiledBase, a.tiledLen]

/-- The opcode of a command. -/
def Instr.op : Instr → Op
  | .rdprof => .rdprof
  | .fmtinfo _ => .fmtinfo
  | .tmprop _ => .tmprop
  | .tmresolve _ _ _ _ => .tmresolve
  | .mtgeom _ => .mtgeom
  | .align _ => .align
  | .bswidth _ _ => .bswidth
  | .surfinfo _ _ _ _ _ => .surfinfo
  | .addrlin _ _ => .addrlin
  | .pixidx _ _ _ _ => .pixidx
  | .addrmic _ _ => .addrmic
  | .pipebank _ _ => .pipebank
  | .addrmac _ _ => .addrmac
  | .swz _ _ => .swz
  | .dswz _ _ => .dswz

/-- The operand words of a command, in packet order (R62 to R65). -/
def Instr.operands : Instr → List Word
  | .rdprof => []
  | .fmtinfo c => [c]
  | .tmprop m => [m.toWord]
  | .tmresolve m w h d => [m.toWord, w, h, d]
  | .mtgeom m => [m.toWord]
  | .align m => [m.toWord]
  | .bswidth m p => [m.toWord, p]
  | .surfinfo m w h d c => [m.toWord, w, h, d, c]
  | .addrlin m a => m.toWord :: a.words
  | .pixidx m x y z => [m.toWord, x, y, z]
  | .addrmic m a => m.toWord :: a.words
  | .pipebank m a => m.toWord :: a.words
  | .addrmac m a => m.toWord :: a.words
  | .swz m a => m.toWord :: a.words
  | .dswz m a => m.toWord :: a.words

/-- The packet of a command: the header, then the operand words. -/
def encode (i : Instr) : List Word := i.op.header :: i.operands

/-- The twelve words of a packet whose bits are the low `nbits` bits of `w`, word 0 lowest. -/
def tableWords (nbits w : Nat) : List Word :=
  (List.range 12).map fun k => BitVec.ofNat 32 ((w % 2 ^ nbits) >>> (32 * k))

/-- The command the decoder reads from the bits `w` of a table row. -/
def decodeTableWord (nbits w : Nat) : Option Instr :=
  match decode (tableWords nbits w) with
  | .ok (i, _) => some i
  | .error _ => none

end Sys2Proof
end

