-- ==== Sys2Proof/Machine/State.lean ====
section
/-! DEFINITION. The state of the machine as plain data, the reasons a step can stop, and the state after reset
(spec/10_state.md, spec/20_memory.md R41, spec/30_encoding.md R60 and R61, spec/70_reset_and_hazards.md R230 to R232). -/

namespace Sys2Proof.Machine

open Sys2Proof

/-- PHASE (R26). -/
inductive Phase where
  | idle | recv | exec | send
deriving DecidableEq, Repr

/-- RSP, the response latch (R25): the header's three fields and up to 11 result words. -/
structure Rsp where
  opc : BitVec 8
  flags : BitVec 8
  status : BitVec 8
  words : List Word
deriving DecidableEq, Repr

/-- The loop state of SWZ and DSWZ (R27). -/
structure Loop where
  x : Nat
  y : Nat
  copied : BitVec 64
  skipped : BitVec 64
deriving DecidableEq, Repr

/-- One thing the host does while a SWZ or DSWZ runs (spec/20_memory.md R49, spec/70_reset_and_hazards.md R230). -/
inductive HostAct where
  | write (a : BitVec 32) (b : Byte)
  | read (a : BitVec 32)
  | assertReset
deriving DecidableEq, Repr

/-- The data memory (spec/20_memory.md R41): address and byte pairs, addresses strictly rising, none listed with the
byte an unlisted address reads as. -/
abbrev Memory := List Host.Cell

/-- The state. The block's own: `phase`, `req`, `owed`, `rsp`, `loop`. The channels and the memory: `cmdQ`, `rspQ`,
`resetIn`, `mem`. The model's own: `rspReady`, `rspTaken`, `hostTurns`, `hostSaw`, `free` (log entries 6, 7, 9). -/
structure State where
  /-- PHASE (R26). -/
  phase : Phase
  /-- The operand latch (R24). -/
  req : Req
  /-- The operand words RECV still owes (R26). -/
  owed : Nat
  /-- The response latch (R25). -/
  rsp : Rsp
  /-- The loop state of SWZ and DSWZ (R27). -/
  loop : Loop
  /-- The data memory (R41). -/
  mem : Memory
  /-- The CMD channel: words presented and not yet taken (R60). -/
  cmdQ : List Word
  /-- The RSP channel: words offered and not yet taken (R61). -/
  rspQ : List Word
  /-- The RESET input (R230). -/
  resetIn : Bool
  /-- An input: the host is taking response words (R61, R237). -/
  rspReady : Bool
  /-- The response words the host has taken, oldest first. -/
  rspTaken : List Word
  /-- For each coming byte access of the running SWZ or DSWZ, what the host does just before it (R49). -/
  hostTurns : List (List HostAct)
  /-- The bytes the host has read in those turns. -/
  hostSaw : List Host.Cell
  /-- How many free values have been drawn. -/
  free : Nat
deriving DecidableEq, Repr

/-- Why a step can stop with a fault. -/
inductive Fault where
  /-- Raised by `step` alone, in RECV or EXEC, when REQ holds none of the fifteen opcodes. The spec gives such a state no
  behaviour and reaches none. Safe: no state that a run from reset reaches raises it. -/
  | noCommand
deriving DecidableEq, Repr

/-- Why an instruction can be refused. -/
inductive Refusal where
  /-- Raised by an arm of `exec` whose instruction has no meaning yet. Safe. No arm raises it. -/
  | notModelled (mnemonic : String)
deriving DecidableEq, Repr

/-- The state after reset (R31, R232). PHASE is IDLE and no response word is pending; REQ, RSP and the loop state are
unspecified there and hold zeros here (log entries 3, 4, 5). -/
def State.reset : State where
  phase := .idle
  req := Req.zero
  owed := 0
  rsp := { opc := 0#8, flags := 0#8, status := 0#8, words := [] }
  loop := { x := 0, y := 0, copied := 0#64, skipped := 0#64 }
  mem := []
  cmdQ := []
  rspQ := []
  resetIn := false
  rspReady := true
  rspTaken := []
  hostTurns := []
  hostSaw := []
  free := 0

end Sys2Proof.Machine
end

