-- ==== Sys2Proof/Machine/Flags.lean ====
section
/-! DEFINITION. The two indicators of a response: STATUS (spec/60_exceptions.md R210) and FLAGS.BTS
(spec/30_encoding.md R66, spec/44_swizzle.md R196). -/

namespace Sys2Proof.Machine

open Sys2Proof

/-- The causes of an exceptional response, in the order of their codes, which is the order of the checks (R210, R217).
`bufferTooSmall` is reserved: no command raises it (R216). -/
inductive Status where
  | illegalCommand | unsupportedFormat | unsupportedTileMode | unsupportedSampleCount | invalidDimensions
  | bufferTooSmall | badOperand | overflow
deriving DecidableEq, Repr

/-- STATUS of a command that completed (R210). -/
def statusOk : BitVec 8 := 0x00#8

/-- The code of each cause (R210). -/
def Status.code : Status → BitVec 8
  | .illegalCommand => 0x01#8
  | .unsupportedFormat => 0x02#8
  | .unsupportedTileMode => 0x03#8
  | .unsupportedSampleCount => 0x04#8
  | .invalidDimensions => 0x05#8
  | .bufferTooSmall => 0x06#8
  | .badOperand => 0x07#8
  | .overflow => 0x08#8

/-- FLAGS of every response but those of SWZ and DSWZ that completed (R66). -/
def flagsNone : BitVec 8 := 0x00#8

/-- FLAGS of a SWZ or DSWZ that completed: BTS is bit 0, set exactly when an element was skipped (R66, R196). -/
def btsFlags (skipped : BitVec 64) : BitVec 8 := if skipped = 0#64 then 0x00#8 else 0x01#8

end Sys2Proof.Machine
end

