-- ==== Sys2Proof/Machine/Operands.lean ====
section
/-! DEFINITION. Arithmetic on naturals as the rules write it (spec/00_scope.md R9, R10), operand assembly
(spec/30_encoding.md R68) and result words (R67). -/

namespace Sys2Proof.Machine

open Sys2Proof

/-- `ceil(a / b)` (R9). -/
def ceilDiv (a b : Nat) : Nat := (a + b - 1) / b

/-- `alignUp(v, a)` for `a >= 1` (R10). -/
def alignUp (v a : Nat) : Nat := ceilDiv v a * a

/-- `nextPow2(v)`, the least power of two that is at least `v`; 1 for 0 and 1 (R10). -/
def nextPow2 (v : Nat) : Nat := if v ≤ 1 then 1 else 2 ^ (Nat.log2 (v - 1) + 1)

/-- `v` as a 32-bit result word (R11, R67). -/
def word32 (v : Nat) : Word := BitVec.ofNat 32 v

/-- A 64-bit result: two words, the low one first (R67). -/
def words64 (v : Nat) : List Word := [word32 v, word32 (v >>> 32)]

/-- `pipeSwizzle` of SWZ and DSWZ: bit 8 of `swizzleValue` (R68). -/
def swizzlePipe (v : Word) : Nat := (v.toNat >>> 8) &&& 1

/-- `bankSwizzle` of SWZ and DSWZ: bits 10:9 of `swizzleValue` (R68). -/
def swizzleBank (v : Word) : Nat := (v.toNat >>> 9) &&& 3

end Sys2Proof.Machine
end

