-- ==== Sys2Proof/Machine/Tables.lean ====
section
/-! DEFINITION. The constants of the block (spec/10_state.md R23, R29): the hardware profile (spec/00_scope.md R7), the
format table (spec/40_tables.md R94), the tile-mode table (R97) and the bank-swap-order table (spec/43_address.md R173). -/

namespace Sys2Proof.Machine

open Sys2Proof

/-- The profile of this hardware (R7, R23). Six of the nine values are general knowledge (log entry 1). -/
def profile : Config.Profile where
  numPipes := 2
  numBanks := 4
  pipeInterleaveBytes := 256
  rowSize := 2048
  swapSize := 256
  splitSize := 2048
  numPipeBits := 1
  numBankBits := 2
  numGroupBits := 8

/-- A row of the format table. -/
structure FormatInfo where
  formatCode : Nat
  bitsPerPixel : Nat
  isBlockCompressed : Bool
deriving DecidableEq, Repr

/-- The format table, 19 rows (R94). -/
def formatTable : List FormatInfo :=
  [⟨0x001, 8, false⟩, ⟨0x002, 8, false⟩, ⟨0x007, 16, false⟩, ⟨0x008, 16, false⟩, ⟨0x00A, 16, false⟩,
   ⟨0x00B, 16, false⟩, ⟨0x019, 32, false⟩, ⟨0x01A, 32, false⟩, ⟨0x41A, 32, false⟩,
   ⟨0x031, 64, true⟩, ⟨0x431, 64, true⟩, ⟨0x032, 128, true⟩, ⟨0x432, 128, true⟩, ⟨0x033, 128, true⟩,
   ⟨0x433, 128, true⟩, ⟨0x034, 64, true⟩, ⟨0x234, 64, true⟩, ⟨0x035, 128, true⟩, ⟨0x235, 128, true⟩]

/-- `FMT(code)`: the row whose key equals the code in all 32 bits (R92). -/
def fmt? (code : Word) : Option FormatInfo := formatTable.find? fun f => f.formatCode == code.toNat

/-- The seventeen tile modes in code order (R97). -/
def tileModes : List TileMode :=
  [.linearGeneral, .linearAligned, .tiled1DThin1, .tiled1DThick, .tiled2DThin1, .tiled2DThin2, .tiled2DThin4,
   .tiled2DThick, .tiled2BThin1, .tiled2BThin2, .tiled2BThin4, .tiled2BThick, .tiled3DThin1, .tiled3DThick,
   .tiled3BThin1, .tiled3BThick, .linearSpecial]

/-- The code of a tile mode (R97). -/
def tmCode : TileMode → Nat
  | .linearGeneral => 0
  | .linearAligned => 1
  | .tiled1DThin1 => 2
  | .tiled1DThick => 3
  | .tiled2DThin1 => 4
  | .tiled2DThin2 => 5
  | .tiled2DThin4 => 6
  | .tiled2DThick => 7
  | .tiled2BThin1 => 8
  | .tiled2BThin2 => 9
  | .tiled2BThin4 => 10
  | .tiled2BThick => 11
  | .tiled3DThin1 => 12
  | .tiled3DThick => 13
  | .tiled3BThin1 => 14
  | .tiled3BThick => 15
  | .linearSpecial => 16

/-- The tile mode of a 5-bit field; codes 17 to 31 have none (R63, R96). -/
def tmOf (c : BitVec 5) : Option TileMode := tileModes[c.toNat]?

/-- `TM.family(m)` (R97). -/
def tmFamily : TileMode → Family
  | .linearGeneral | .linearAligned | .linearSpecial => .linear
  | .tiled1DThin1 | .tiled1DThick => .micro
  | .tiled2DThin1 | .tiled2DThin2 | .tiled2DThin4 | .tiled2DThick | .tiled2BThin1 | .tiled2BThin2 | .tiled2BThin4
  | .tiled2BThick | .tiled3DThin1 | .tiled3DThick | .tiled3BThin1 | .tiled3BThick => .macroTiled

/-- `TM.thickness(m)` (R97). -/
def tmThickness : TileMode → Nat
  | .tiled1DThick | .tiled2DThick | .tiled2BThick | .tiled3DThick | .tiled3BThick => 4
  | .linearGeneral | .linearAligned | .tiled1DThin1 | .tiled2DThin1 | .tiled2DThin2 | .tiled2DThin4 | .tiled2BThin1
  | .tiled2BThin2 | .tiled2BThin4 | .tiled3DThin1 | .tiled3BThin1 | .linearSpecial => 1

/-- `TM.isThick(m)` (R96). -/
def tmThick (m : TileMode) : Bool := 1 < tmThickness m

/-- `TM.isMacroTiled(m)` (R97). -/
def tmMacro (m : TileMode) : Bool := tmFamily m == .macroTiled

/-- `TM.isBankSwapped(m)` (R97). -/
def tmSwapped : TileMode → Bool
  | .tiled2BThin1 | .tiled2BThin2 | .tiled2BThin4 | .tiled2BThick | .tiled3BThin1 | .tiled3BThick => true
  | .linearGeneral | .linearAligned | .tiled1DThin1 | .tiled1DThick | .tiled2DThin1 | .tiled2DThin2 | .tiled2DThin4
  | .tiled2DThick | .tiled3DThin1 | .tiled3DThick | .linearSpecial => false

/-- `TM.aspect(m)` (R97). -/
def tmAspect : TileMode → Nat
  | .tiled2DThin2 | .tiled2BThin2 => 2
  | .tiled2DThin4 | .tiled2BThin4 => 4
  | .linearGeneral | .linearAligned | .tiled1DThin1 | .tiled1DThick | .tiled2DThin1 | .tiled2DThick | .tiled2BThin1
  | .tiled2BThick | .tiled3DThin1 | .tiled3DThick | .tiled3BThin1 | .tiled3BThick | .linearSpecial => 1

/-- `TM.nonBS(m)` (R97). -/
def tmNonBS : TileMode → TileMode
  | .tiled2BThin1 => .tiled2DThin1
  | .tiled2BThin2 => .tiled2DThin2
  | .tiled2BThin4 => .tiled2DThin4
  | .tiled2BThick => .tiled2DThick
  | .tiled3BThin1 => .tiled3DThin1
  | .tiled3BThick => .tiled3DThick
  | .linearGeneral => .linearGeneral
  | .linearAligned => .linearAligned
  | .tiled1DThin1 => .tiled1DThin1
  | .tiled1DThick => .tiled1DThick
  | .tiled2DThin1 => .tiled2DThin1
  | .tiled2DThin2 => .tiled2DThin2
  | .tiled2DThin4 => .tiled2DThin4
  | .tiled2DThick => .tiled2DThick
  | .tiled3DThin1 => .tiled3DThin1
  | .tiled3DThick => .tiled3DThick
  | .linearSpecial => .linearSpecial

/-- The order of the families by simplicity: linear, micro, macro (R99). -/
def familyRank : Family → Nat
  | .linear => 0
  | .micro => 1
  | .macroTiled => 2

/-- The bank-swap-order table (R173). -/
def bankSwapOrder : List Nat := [0, 1, 3, 2, 6, 7, 5, 4]

end Sys2Proof.Machine
end

