-- ==== Sys2Proof/Machine/Ops.lean ====
section
/-! DEFINITION. The named operations over the state: the memory and its two primitives (spec/20_memory.md R42, R43), the
host's turns (R49), raising an exception and ending a command (spec/60_exceptions.md R212, spec/30_encoding.md R66), the
transitions of PHASE (spec/10_state.md R26) and RESET (spec/70_reset_and_hazards.md R230, R231). -/

namespace Sys2Proof.Machine

open Sys2Proof

/-! ### Memory -/

/-- What an unlisted address reads as (log entry 2, DESIGN CHOICE, unsafe). -/
def memBackground : Byte := 0x00#8

/-- The number of byte addresses, `2^32` (R41). -/
def memSize : Nat := 2 ^ Config.addrBits

/-- The byte at address `a`. -/
def memGet : Memory → Nat → Byte
  | [], _ => memBackground
  | c :: m, a => if c.1 = a then c.2 else memGet m a

/-- Stores byte `b` at address `a` and keeps the canonical form. -/
def memSet : Memory → Nat → Byte → Memory
  | [], a, b => if b = memBackground then [] else [(a, b)]
  | c :: m, a, b =>
    if a < c.1 then if b = memBackground then c :: m else (a, b) :: c :: m
    else if a = c.1 then if b = memBackground then m else (a, b) :: m
    else c :: memSet m a b

/-- The canonical form: addresses below `2^32` and strictly rising, no byte equal to the background. -/
def memWf : Memory → Bool
  | [] => true
  | c :: m => c.1 < memSize && c.2 != memBackground && (m.all fun d => c.1 < d.1) && memWf m

/-- `MemRead(addr, n)` with no other agent at work (R42). -/
def memGetSpan (m : Memory) : Nat → Nat → List Byte
  | _, 0 => []
  | a, n + 1 => memGet m a :: memGetSpan m (a + 1) n

/-- `MemWrite(addr, n, v)` with no other agent at work (R43). -/
def memSetSpan : Memory → Nat → List Byte → Memory
  | m, _, [] => m
  | m, a, b :: bs => memSetSpan (memSet m a b) (a + 1) bs

/-! ### The host during a SWZ or DSWZ -/

/-- One thing the host does (R49). -/
def hostAct (h : HostAct) (s : State) : State :=
  match h with
  | .write a b => { s with mem := memSet s.mem a.toNat b }
  | .read a => { s with hostSaw := s.hostSaw ++ [(a.toNat, memGet s.mem a.toNat)] }
  | .assertReset => { s with resetIn := true }

/-- The host's turn before one byte access of the block: the first of `hostTurns` is used up. -/
def hostTurn (s : State) : State :=
  match s.hostTurns with
  | [] => s
  | t :: ts => t.foldl (fun s h => hostAct h s) { s with hostTurns := ts }

/-- `MemRead(addr, n)`: `n` byte reads in ascending order, the host having a turn before each (R42, R47, R49). Once
RESET is asserted no access is made: `error` carries the state in which the command was cut off (R231). -/
def memRead : Nat → Nat → State → Except State (List Byte × State)
  | _, 0, s => .ok ([], s)
  | a, n + 1, s =>
    let s₁ := hostTurn s
    if s₁.resetIn then .error s₁
    else
      match memRead (a + 1) n s₁ with
      | .error s₂ => .error s₂
      | .ok (bs, s₂) => .ok (memGet s₁.mem a :: bs, s₂)

/-- `MemWrite(addr, n, v)`: byte writes in ascending order, as in `memRead` (R43, R47, R49, R231). -/
def memWrite : Nat → List Byte → State → Except State State
  | _, [], s => .ok s
  | a, b :: bs, s =>
    let s₁ := hostTurn s
    if s₁.resetIn then .error s₁
    else memWrite (a + 1) bs { s₁ with mem := memSet s₁.mem a b }

/-! ### Unspecified latches -/

/-- Free bits for a field of width `w`. -/
def freeField (w draw slot : Nat) : BitVec w := BitVec.ofNat w (Config.freeBits draw slot)

/-- REQ with every field free (spec/93_implementation_defined.md U1). -/
def freeReq (draw : Nat) : Req where
  opc := freeField 8 draw 0
  m := MWord.ofWord (freeField 32 draw 1)
  formatCode := freeField 32 draw 2
  width := freeField 32 draw 3
  height := freeField 32 draw 4
  depth := freeField 32 draw 5
  x := freeField 32 draw 6
  y := freeField 32 draw 7
  slice := freeField 32 draw 8
  sample := freeField 32 draw 9
  pitch := freeField 32 draw 10
  surfHeight := freeField 32 draw 11
  surfDepth := freeField 32 draw 12
  swizzleValue := freeField 32 draw 13
  linBase := freeField 32 draw 14
  linLen := freeField 32 draw 15
  tiledBase := freeField 32 draw 16
  tiledLen := freeField 32 draw 17

/-- RSP with every field free: at most 11 result words, each of any value (U1, R25). -/
def freeRsp (draw : Nat) : Rsp where
  opc := freeField 8 draw 18
  flags := freeField 8 draw 19
  status := freeField 8 draw 20
  words := (List.range (Config.freeBits draw 21 % 12)).map fun k => freeField 32 draw (22 + k)

/-- The loop state with every field free (U1). -/
def freeLoop (draw : Nat) : Loop where
  x := Config.freeBits draw 40
  y := Config.freeBits draw 41
  copied := freeField 64 draw 42
  skipped := freeField 64 draw 43

/-- The loop state is discarded: from here on it is unspecified (R27, U1, log entry 6). -/
def discardLoop (s : State) : State := { s with loop := freeLoop s.free, free := s.free + 1 }

/-- PHASE becomes IDLE, nothing is pending, and REQ, RSP and the loop state are unspecified (R31, U1, log entry 6). -/
def toIdle (s : State) : State :=
  { s with
    phase := .idle
    owed := 0
    rspQ := []
    req := freeReq s.free
    rsp := freeRsp s.free
    loop := freeLoop s.free
    free := s.free + 1 }

/-- RESET is asserted: whatever the block was doing is dropped. The memory, the words still waiting on CMD and the words
the host has taken stay as they are (R230, R231). -/
def inReset (s : State) : State := toIdle s

/-! ### Ending a command -/

/-- The response header word (R66). -/
def rspHeader (r : Rsp) : Word := r.opc ++ 0#8 ++ r.flags ++ r.status

/-- All the words of a response: the header, then the result words (R66, R67). -/
def rspWords (r : Rsp) : List Word := rspHeader r :: r.words

/-- PHASE becomes SEND with the response `r` to be drained (R25, R26). -/
def sendRsp (r : Rsp) (s : State) : State := { s with phase := .send, rsp := r, rspQ := rspWords r }

/-- `raise`: taking an exception, for every command (spec/60_exceptions.md R211, R212, R220). The response is the header
alone; nothing is saved and nothing else changes. -/
def raise (opc : BitVec 8) (c : Status) (s : State) : State :=
  sendRsp { opc := opc, flags := flagsNone, status := c.code, words := [] } s

/-- The command completed: STATUS is OK and the result words follow the header (R66, R67). -/
def complete (op : Op) (flags : BitVec 8) (ws : List Word) (s : State) : State :=
  sendRsp { opc := op.code, flags := flags, status := statusOk, words := ws } s

/-- The end of a command that touches no memory: its result words, or the exception it raises. -/
def answer (op : Op) (r : Except Status (List Word)) (s : State) : State :=
  match r with
  | .error c => raise op.code c s
  | .ok ws => complete op flagsNone ws s

/-! ### The transitions of PHASE other than executing (R26) -/

/-- IDLE: a word from CMD is taken as a header (R60, R62, R70). With no word there the block waits. -/
def takeHeader (s : State) : State :=
  match s.cmdQ with
  | [] => s
  | w :: ws =>
    match Op.ofHeader w with
    | none => raise (headerOpc w) .illegalCommand { s with cmdQ := ws }
    | some op =>
      { s with
        cmdQ := ws
        req := s.req.latchHeader op
        owed := op.format.operandWords
        phase := if op.format.operandWords = 0 then .exec else .recv }

/-- RECV: a word from CMD is taken as the next operand word of the command `op` (R24, R26). With no word there the block
waits (spec/70_reset_and_hazards.md R235). -/
def takeOperand (op : Op) (s : State) : State :=
  match s.cmdQ with
  | [] => s
  | w :: ws =>
    { s with
      cmdQ := ws
      req := s.req.latch op (op.format.operandWords + 1 - s.owed) w
      owed := s.owed - 1
      phase := if s.owed ≤ 1 then .exec else .recv }

/-- SEND: the host takes a response word if it is ready; with the last one PHASE becomes IDLE (R26, R61, R237). -/
def drain (s : State) : State :=
  if s.rspReady then
    match s.rspQ with
    | [] => toIdle s
    | [w] => toIdle { s with rspTaken := s.rspTaken ++ [w] }
    | w :: w' :: ws => { s with rspTaken := s.rspTaken ++ [w], rspQ := w' :: ws }
  else s

/-- The state in which the packet `ws` has just arrived whole: PHASE is EXEC and REQ holds its operands. A word that is
no legal header stands first on CMD, with PHASE IDLE (log entry 10). -/
def presentPacket (ws : List Word) (s : State) : State :=
  match ws with
  | [] => s
  | h :: rest =>
    match Op.ofHeader h with
    | none => { s with phase := .idle, resetIn := false, cmdQ := h :: s.cmdQ }
    | some op =>
      { s with
        phase := .exec
        resetIn := false
        owed := 0
        req := Req.latchAll op 1 (rest.take op.format.operandWords) (s.req.latchHeader op) }

end Sys2Proof.Machine
end

