-- ==== Sys2Proof/Machine/Resolver.lean ====
section
/-! DEFINITION. The tile-mode resolver and its command TMRESOLVE (spec/41_tilemode_resolver.md). -/

namespace Sys2Proof.Machine

open Sys2Proof

/-- `MacroTileDims(m)`: the macro-tile width and height (R119). -/
def macroTileDims (hw : Config.Profile) (t : TileMode) : Nat × Nat :=
  (8 * hw.numBanks / tmAspect t, tmAspect t * 8 * hw.numPipes)

/-- `TileSlices(m, bpp, sampleCount)` (R115). -/
def tileSlices (hw : Config.Profile) (t : TileMode) (bpp ns : Nat) : Nat :=
  let samplesPerTile := hw.splitSize / (8 * bpp)
  if samplesPerTile = 0 then 1 else max 1 ((if tmThick t then 4 else ns) / samplesPerTile)

/-- `Rotation(m)` (R116). -/
def rotation (hw : Config.Profile) (t : TileMode) : Nat :=
  if 4 ≤ tmCode t ∧ tmCode t ≤ 11 then hw.numPipes * ((hw.numBanks >>> 1) - 1)
  else if 12 ≤ tmCode t ∧ tmCode t ≤ 15 then if 4 ≤ hw.numPipes then (hw.numPipes >>> 1) - 1 else 1
  else 0

/-- The arguments of `Resolve` other than the mode (R110). -/
structure ResolveArgs where
  bpp : Nat
  mipLevel : Nat
  width : Nat
  height : Nat
  depth : Nat
  sampleCount : Nat
  isDepthBuffer : Bool
deriving DecidableEq, Repr

/-- Rule A, bank-swap removal (R111). -/
def ruleA (hw : Config.Profile) (q : ResolveArgs) (t : TileMode) : TileMode :=
  if tmSwapped t ∧ (1 < q.sampleCount ∨ 1 < tileSlices hw t q.bpp q.sampleCount ∨ q.isDepthBuffer) then tmNonBS t
  else t

/-- One step toward THIN1: THIN4 to THIN2 and THIN2 to THIN1 (R112). -/
def thinner : TileMode → TileMode
  | .tiled2DThin4 => .tiled2DThin2
  | .tiled2DThin2 => .tiled2DThin1
  | .tiled2BThin4 => .tiled2BThin2
  | .tiled2BThin2 => .tiled2BThin1
  | .linearGeneral => .linearGeneral
  | .linearAligned => .linearAligned
  | .tiled1DThin1 => .tiled1DThin1
  | .tiled1DThick => .tiled1DThick
  | .tiled2DThin1 => .tiled2DThin1
  | .tiled2DThick => .tiled2DThick
  | .tiled2BThin1 => .tiled2BThin1
  | .tiled2BThick => .tiled2BThick
  | .tiled3DThin1 => .tiled3DThin1
  | .tiled3DThick => .tiled3DThick
  | .tiled3BThin1 => .tiled3BThin1
  | .tiled3BThick => .tiled3BThick
  | .linearSpecial => .linearSpecial

/-- Rule B, aspect reduction (R112). -/
def ruleB (hw : Config.Profile) (t : TileMode) : TileMode :=
  if hw.splitSize < hw.pipeInterleaveBytes * tmAspect t then thinner t else t

/-- Step C1 of Rule C: a macro mode whose padded surface is smaller than one macro-tile becomes micro (R113). -/
def ruleC1 (hw : Config.Profile) (wP hP : Nat) (t : TileMode) : TileMode :=
  if tmMacro t ∧ (wP < (macroTileDims hw t).1 ∨ hP < (macroTileDims hw t).2) then
    if tmThick t then .tiled1DThick else .tiled1DThin1
  else t

/-- The thin mode of the same family: 3 to 2, 7 to 4, 13 to 12 (step C2 of R113). -/
def thickToThin : TileMode → TileMode
  | .tiled1DThick => .tiled1DThin1
  | .tiled2DThick => .tiled2DThin1
  | .tiled3DThick => .tiled3DThin1
  | .linearGeneral => .linearGeneral
  | .linearAligned => .linearAligned
  | .tiled1DThin1 => .tiled1DThin1
  | .tiled2DThin1 => .tiled2DThin1
  | .tiled2DThin2 => .tiled2DThin2
  | .tiled2DThin4 => .tiled2DThin4
  | .tiled2BThin1 => .tiled2BThin1
  | .tiled2BThin2 => .tiled2BThin2
  | .tiled2BThin4 => .tiled2BThin4
  | .tiled2BThick => .tiled2BThick
  | .tiled3DThin1 => .tiled3DThin1
  | .tiled3BThin1 => .tiled3BThin1
  | .tiled3BThick => .tiled3BThick
  | .linearSpecial => .linearSpecial

/-- Rule C, mip-level degradation: steps C0, C1 and C2 (R113). -/
def ruleC (hw : Config.Profile) (q : ResolveArgs) (t : TileMode) : TileMode :=
  if q.mipLevel = 0 then t
  else
    let t₁ := ruleC1 hw (nextPow2 q.width) (nextPow2 q.height) (tmNonBS t)
    if nextPow2 q.depth < 4 then thickToThin t₁ else t₁

/-- The 2D-tiled equivalent of a 3D-tiled mode: 12 to 4, 13 to 7, 14 to 8, 15 to 11 (R114). -/
def collapse3D : TileMode → TileMode
  | .tiled3DThin1 => .tiled2DThin1
  | .tiled3DThick => .tiled2DThick
  | .tiled3BThin1 => .tiled2BThin1
  | .tiled3BThick => .tiled2BThick
  | .linearGeneral => .linearGeneral
  | .linearAligned => .linearAligned
  | .tiled1DThin1 => .tiled1DThin1
  | .tiled1DThick => .tiled1DThick
  | .tiled2DThin1 => .tiled2DThin1
  | .tiled2DThin2 => .tiled2DThin2
  | .tiled2DThin4 => .tiled2DThin4
  | .tiled2DThick => .tiled2DThick
  | .tiled2BThin1 => .tiled2BThin1
  | .tiled2BThin2 => .tiled2BThin2
  | .tiled2BThin4 => .tiled2BThin4
  | .tiled2BThick => .tiled2BThick
  | .linearSpecial => .linearSpecial

/-- Rule D, 3D collapse (R114). -/
def ruleD (hw : Config.Profile) (t : TileMode) : TileMode :=
  if rotation hw t % hw.numPipes = 0 then collapse3D t else t

/-- One pass: the four rules once each, in order (R117). -/
def resolvePass (hw : Config.Profile) (q : ResolveArgs) (t : TileMode) : TileMode :=
  ruleD hw (ruleC hw q (ruleB hw (ruleA hw q t)))

/-- At most `n` passes, ending after the first that changes nothing (R117). -/
def resolvePasses (hw : Config.Profile) (q : ResolveArgs) : Nat → TileMode → TileMode
  | 0, t => t
  | n + 1, t => if resolvePass hw q t = t then t else resolvePasses hw q n (resolvePass hw q t)

/-- `Resolve`: at most four passes (R110, R117). -/
def resolve (hw : Config.Profile) (q : ResolveArgs) (t : TileMode) : TileMode := resolvePasses hw q 4 t

/-- The arguments TMRESOLVE gives to `Resolve` (R118). -/
def tmresolveArgs (m : MWord) (width height depth : Word) : ResolveArgs where
  bpp := m.bpp.toNat
  mipLevel := m.mipLevel.toNat
  width := width.toNat
  height := height.toNat
  depth := depth.toNat
  sampleCount := m.sampleCount.toNat
  isDepthBuffer := m.isDepthBuffer == 1#1

/-- The result of TMRESOLVE (R118). -/
def tmresolveResult (m : MWord) (width height depth : Word) : Except Status (List Word) :=
  if m.rsv ≠ 0#3 then .error .illegalCommand
  else
    match tmOf m.tileMode with
    | none => .error .unsupportedTileMode
    | some t =>
      if m.sampleCount = 0#4 then .error .unsupportedSampleCount
      else if m.bpp = 0#8 then .error .badOperand
      else .ok [word32 (tmCode (resolve profile (tmresolveArgs m width height depth) t))]

/-- TMRESOLVE (R118). -/
def execTmresolve (m : MWord) (width height depth : Word) (s : State) : Host.Outcome State Fault Refusal :=
  .next (answer .tmresolve (tmresolveResult m width height depth) s)

end Sys2Proof.Machine
end

