-- ==== Sys2Proof/Machine/Geometry.lean ====
section
/-! DEFINITION. The geometry commands MTGEOM, ALIGN, BSWIDTH and SURFINFO (spec/42_geometry.md). -/

namespace Sys2Proof.Machine

open Sys2Proof

/-! ### Macro-tiles -/

/-- `MacroTileBytes(m, bpp, ns)` (R130). -/
def macroTileBytes (hw : Config.Profile) (t : TileMode) (bpp ns : Nat) : Nat :=
  ceilDiv (ns * tmThickness t * bpp * (macroTileDims hw t).2 * (macroTileDims hw t).1) 8

/-- `MacroTilePlaneBytes(m, bpp, ns)` (R130). -/
def macroTilePlaneBytes (hw : Config.Profile) (t : TileMode) (bpp ns : Nat) : Nat :=
  ns * ceilDiv (bpp * (macroTileDims hw t).2 * (macroTileDims hw t).1) 8

/-- The result of MTGEOM (R131). -/
def mtgeomResult (m : MWord) : Except Status (List Word) :=
  if m.rsv ≠ 0#3 then .error .illegalCommand
  else
    match tmOf m.tileMode with
    | none => .error .unsupportedTileMode
    | some t =>
      if m.sampleCount = 0#4 then .error .unsupportedSampleCount
      else if tmMacro t = false ∨ m.bpp = 0#8 then .error .badOperand
      else
        .ok [word32 (macroTileDims profile t).1, word32 (macroTileDims profile t).2,
          word32 (macroTileBytes profile t m.bpp.toNat m.sampleCount.toNat)]

/-- MTGEOM (R131). -/
def execMtgeom (m : MWord) (s : State) : Host.Outcome State Fault Refusal :=
  .next (answer .mtgeom (mtgeomResult m) s)

/-! ### Alignments -/

/-- The four alignments (R132): `base` in bytes, `pitch` and `height` in elements, `depth` in slices. -/
structure Aligns where
  base : Nat
  pitch : Nat
  height : Nat
  depth : Nat
deriving DecidableEq, Repr

/-- The alignments of the linear family (R133): mode 1 is aligned, modes 0 and 16 are not. -/
def alignsLinear (hw : Config.Profile) (t : TileMode) (bpp : Nat) : Aligns :=
  if t = .linearAligned then
    { base := hw.pipeInterleaveBytes, pitch := max 64 (8 * hw.pipeInterleaveBytes / bpp), height := 1,
      depth := tmThickness t }
  else { base := 1, pitch := 1, height := 1, depth := tmThickness t }

/-- The alignments of the micro family (R134). -/
def alignsMicro (hw : Config.Profile) (t : TileMode) (bpp ns : Nat) : Aligns where
  base := hw.pipeInterleaveBytes
  pitch := max 8 (hw.pipeInterleaveBytes / bpp / ns / tmThickness t)
  height := 8
  depth := tmThickness t

/-- `pitchAlign` of the macro family (R135). -/
def macroPitchAlign (hw : Config.Profile) (t : TileMode) (bpp ns : Nat) : Nat :=
  max (macroTileDims hw t).1
    ((macroTileDims hw t).1 * (hw.pipeInterleaveBytes / bpp / (8 * tmThickness t) / ns))

/-- `slicesPerSplit` (R135). -/
def slicesPerSplit (hw : Config.Profile) (t : TileMode) (bpp ns : Nat) : Nat :=
  let microBytes := ceilDiv (tmThickness t * ns * bpp * 64) 8
  if microBytes < hw.splitSize then 1 else microBytes / hw.splitSize

/-- The alignments of the macro family (R135). The correction for certain chip families is not applied. -/
def alignsMacro (hw : Config.Profile) (t : TileMode) (bpp ns : Nat) : Aligns where
  base :=
    max (macroTilePlaneBytes hw t bpp ns)
      (ceilDiv (ns * (macroTileDims hw t).2 * bpp * macroPitchAlign hw t bpp ns) 8) / slicesPerSplit hw t bpp ns
  pitch := macroPitchAlign hw t bpp ns
  height := (macroTileDims hw t).2
  depth := tmThickness t

/-- `Aligns(m, bpp, ns)` (R132). -/
def aligns (hw : Config.Profile) (t : TileMode) (bpp ns : Nat) : Aligns :=
  match tmFamily t with
  | .linear => alignsLinear hw t bpp
  | .micro => alignsMicro hw t bpp ns
  | .macroTiled => alignsMacro hw t bpp ns

/-- Result words 5 and 6 of ALIGN: the macro-tile dimensions, or zeros (R136). -/
def alignDims (hw : Config.Profile) (t : TileMode) : Nat × Nat := if tmMacro t then macroTileDims hw t else (0, 0)

/-- The result of ALIGN (R136). -/
def alignResult (m : MWord) : Except Status (List Word) :=
  if m.rsv ≠ 0#3 then .error .illegalCommand
  else
    match tmOf m.tileMode with
    | none => .error .unsupportedTileMode
    | some t =>
      if m.sampleCount = 0#4 then .error .unsupportedSampleCount
      else if m.bpp = 0#8 then .error .badOperand
      else
        let al := aligns profile t m.bpp.toNat m.sampleCount.toNat
        .ok [word32 al.base, word32 al.pitch, word32 al.height, word32 al.depth,
          word32 (alignDims profile t).1, word32 (alignDims profile t).2]

/-- ALIGN (R136). -/
def execAlign (m : MWord) (s : State) : Host.Outcome State Fault Refusal :=
  .next (answer .align (alignResult m) s)

/-! ### Bank-swapped width -/

/-- The halving loop of R137: at most `fuel` halvings of `v` while `v >= 2 * pitch`. -/
def halve (pitch : Nat) : Nat → Nat → Nat
  | 0, v => v
  | fuel + 1, v => if 2 * pitch ≤ v then halve pitch fuel (v >>> 1) else v

/-- The value the halving loop of R137 starts from, for a bank-swapped mode. -/
def swapStart (hw : Config.Profile) (t : TileMode) (bpp ns : Nat) : Nat :=
  let bytesPerSample := 8 * bpp
  let samplesPerTile := hw.splitSize / bytesPerSample
  let slices := if samplesPerTile = 0 then 1 else max 1 (ns / samplesPerTile)
  let ns' := if tmThick t then 4 else ns
  let bytesPerTileSlice := ns' * bytesPerSample / slices
  let swapWidth := max 1 ((hw.swapSize >>> 1) / bpp) * 8 * hw.numBanks
  let heightBytes := ns' * tmAspect t * hw.numPipes * bpp / slices
  let swapMax := hw.numPipes * hw.numBanks * hw.rowSize / heightBytes
  let swapMin := hw.pipeInterleaveBytes * 8 * hw.numBanks / bytesPerTileSlice
  min swapMax (max swapMin swapWidth)

/-- `BankSwappedWidth(m, bpp, ns, pitch)` (R137). As many halvings as the start value are enough, since `pitch >= 1`. -/
def bankSwappedWidth (hw : Config.Profile) (t : TileMode) (bpp ns pitch : Nat) : Nat :=
  if tmSwapped t then halve pitch (swapStart hw t bpp ns) (swapStart hw t bpp ns) else 0

/-- The result of BSWIDTH (R138). -/
def bswidthResult (m : MWord) (pitch : Word) : Except Status (List Word) :=
  if m.rsv ≠ 0#3 then .error .illegalCommand
  else
    match tmOf m.tileMode with
    | none => .error .unsupportedTileMode
    | some t =>
      if m.sampleCount = 0#4 then .error .unsupportedSampleCount
      else if pitch = 0#32 then .error .invalidDimensions
      else if m.bpp = 0#8 then .error .badOperand
      else .ok [word32 (bankSwappedWidth profile t m.bpp.toNat m.sampleCount.toNat pitch.toNat)]

/-- BSWIDTH (R138). -/
def execBswidth (m : MWord) (pitch : Word) (s : State) : Host.Outcome State Fault Refusal :=
  .next (answer .bswidth (bswidthResult m pitch) s)

/-! ### Surface information -/

/-- Width, height and depth of a surface, in elements and slices. -/
structure Dims where
  width : Nat
  height : Nat
  depth : Nat
deriving DecidableEq, Repr

/-- One dimension of step 1 in texels: shrunk, clamped, and rounded to a power of two above level 0 (R142). -/
def mipDim (v mipLevel : Nat) : Nat :=
  if mipLevel = 0 then max 1 (v >>> mipLevel) else nextPow2 (max 1 (v >>> mipLevel))

/-- One dimension of step 1, width or height, in elements: 4×4 blocks for a block-compressed format (R142). -/
def mipElems (v mipLevel : Nat) (isBC : Bool) : Nat :=
  if isBC then max 1 (ceilDiv (mipDim (alignUp v 4) mipLevel) 4) else mipDim v mipLevel

/-- Step 1, the mip dimensions in elements (R142). -/
def mipDims (width height depth mipLevel : Nat) (isBC : Bool) : Dims where
  width := mipElems width mipLevel isBC
  height := mipElems height mipLevel isBC
  depth := mipDim depth mipLevel

/-- Steps 3 and 4: the alignments with the bank-swap raise of `pitchAlign` (R145). -/
def raisedAligns (hw : Config.Profile) (em : TileMode) (bpp ns width : Nat) : Aligns :=
  let al := aligns hw em bpp ns
  if tmSwapped em then { al with pitch := max al.pitch (bankSwappedWidth hw em bpp ns width) } else al

/-- The `dim` codes of the cube and array kinds (R143). -/
def dimIsArray (dim : Nat) : Bool := dim == 3 || dim == 4 || dim == 5 || dim == 7

/-- Step 5, padding (R146). -/
def padDims (em : TileMode) (dim mipLevel : Nat) (al : Aligns) (d : Dims) : Dims :=
  let depth := if 1 < tmThickness em then alignUp d.depth al.depth else d.depth
  { width := alignUp d.width al.pitch
    height := alignUp d.height al.height
    depth := if dimIsArray dim ∧ 0 < mipLevel then nextPow2 depth else depth }

/-- Step 6, the size in bytes (R147). -/
def surfSize (p : Dims) (ns bpp : Nat) : Nat := ceilDiv (p.height * p.width * p.depth * ns * bpp) 8

/-- SURFINFO's result before it is packed (R140): the source's SurfaceInfo record. -/
structure SurfaceInfo where
  padded : Dims
  bpp : Nat
  size : Nat
  mode : TileMode
  al : Aligns
deriving DecidableEq, Repr

/-- Steps 1 to 6 of SURFINFO (R140), for a known format and legal operands; `ns` is 1 (R141). -/
def surfaceInfo (hw : Config.Profile) (f : FormatInfo) (t : TileMode) (width height depth mipLevel dim : Nat)
    (isDepthBuffer : Bool) : SurfaceInfo :=
  let d := mipDims width height depth mipLevel f.isBlockCompressed
  let em := resolve hw
    { bpp := f.bitsPerPixel, mipLevel := mipLevel, width := d.width, height := d.height, depth := d.depth,
      sampleCount := 1, isDepthBuffer := isDepthBuffer } t
  let al := raisedAligns hw em f.bitsPerPixel 1 d.width
  let p := padDims em dim mipLevel al d
  { padded := p, bpp := f.bitsPerPixel, size := surfSize p 1 f.bitsPerPixel, mode := em, al := al }

/-- The eleven result words of SURFINFO (R67). -/
def SurfaceInfo.words (r : SurfaceInfo) : List Word :=
  [word32 r.padded.width, word32 r.padded.height, word32 r.padded.depth, word32 r.bpp] ++ words64 r.size ++
    [word32 (tmCode r.mode), word32 r.al.base, word32 r.al.pitch, word32 r.al.height, word32 r.al.depth]

/-- Whether a result of SURFINFO does not fit its fields (R147). -/
def SurfaceInfo.overflows (r : SurfaceInfo) : Bool :=
  2 ^ 32 ≤ r.padded.width || 2 ^ 32 ≤ r.padded.height || 2 ^ 32 ≤ r.padded.depth || 2 ^ 64 ≤ r.size

/-- The result of SURFINFO (R140). -/
def surfinfoResult (m : MWord) (width height depth formatCode : Word) : Except Status (List Word) :=
  if m.rsv ≠ 0#3 then .error .illegalCommand
  else
    match fmt? formatCode with
    | none => .error .unsupportedFormat
    | some f =>
      match tmOf m.tileMode with
      | none => .error .unsupportedTileMode
      | some t =>
        if m.sampleCount ≠ 1#4 then .error .unsupportedSampleCount
        else if width = 0#32 ∨ height = 0#32 ∨ 14 ≤ m.mipLevel.toNat then .error .invalidDimensions
        else
          let r := surfaceInfo profile f t width.toNat height.toNat depth.toNat m.mipLevel.toNat m.dim.toNat
            (m.isDepthBuffer == 1#1)
          if r.overflows then .error .overflow else .ok r.words

/-- SURFINFO (R140). -/
def execSurfinfo (m : MWord) (width height depth formatCode : Word) (s : State) :
    Host.Outcome State Fault Refusal :=
  .next (answer .surfinfo (surfinfoResult m width height depth formatCode) s)

end Sys2Proof.Machine
end

