-- ==== Sys2Proof/Machine/Address.lean ====
section
/-! DEFINITION. The address commands ADDRLIN, PIXIDX, ADDRMIC, PIPEBANK and ADDRMAC (spec/43_address.md). -/

namespace Sys2Proof.Machine

open Sys2Proof

/-- The result words of a byte offset, or Overflow (R160, R165, R176, spec/60_exceptions.md R219). -/
def offsetResult (a : Nat) : Except Status (List Word) :=
  if 2 ^ 64 ≤ a then .error .overflow else .ok (words64 a)

/-! ### Linear -/

/-- `AddrLinear` (R161). -/
def addrLinear (x y slice sample depthSlices bpp pitch height : Nat) : Nat :=
  (x + pitch * y + height * pitch * (slice + depthSlices * sample)) * bpp / 8

/-- The result of ADDRLIN (R160). -/
def addrlinResult (m : MWord) (a : AddrArgs) : Except Status (List Word) :=
  if m.rsv ≠ 0#3 then .error .illegalCommand
  else if m.bpp = 0#8 then .error .badOperand
  else
    offsetResult (addrLinear a.x.toNat a.y.toNat a.slice.toNat a.sample.toNat a.depthSlices.toNat m.bpp.toNat
      a.pitch.toNat a.height.toNat)

/-- ADDRLIN (R160). -/
def execAddrlin (m : MWord) (a : AddrArgs) (s : State) : Host.Outcome State Fault Refusal :=
  .next (answer .addrlin (addrlinResult m a) s)

/-! ### Micro-tile pixel index -/

/-- Bit `i` of `v`, as 0 or 1. -/
def bitOf (v i : Nat) : Nat := (v >>> i) % 2

/-- The bit orders of R164's table: for each `bpp`, what bits 0 to 5 of the index are, as (true, i) for bit `i` of `x`
and (false, i) for bit `i` of `y`. -/
def pixelOrder (bpp : Nat) : List (Bool × Nat) :=
  if bpp = 8 then [(true, 0), (true, 1), (true, 2), (false, 1), (false, 0), (false, 2)]
  else if bpp = 16 then [(true, 0), (true, 1), (true, 2), (false, 0), (false, 1), (false, 2)]
  else if bpp = 32 then [(true, 0), (true, 1), (false, 0), (true, 2), (false, 1), (false, 2)]
  else if bpp = 64 then [(true, 0), (false, 0), (true, 1), (true, 2), (false, 1), (false, 2)]
  else if bpp = 96 then [(true, 0), (true, 1), (false, 0), (true, 2), (false, 1), (false, 2)]
  else if bpp = 128 then [(false, 0), (true, 0), (true, 1), (true, 2), (false, 1), (false, 2)]
  else [(true, 0), (true, 1), (false, 0), (true, 2), (false, 1), (false, 2)]

/-- The number whose bits, from bit 0 up, the list names. -/
def gatherBits (x y : Nat) : List (Bool × Nat) → Nat
  | [] => 0
  | (ofX, i) :: rest => bitOf (if ofX then x else y) i + 2 * gatherBits x y rest

/-- The bits of `z` in the index: b6 and b7 when thick, b8 when the thickness is 8 (R164). -/
def sliceBits (z t : Nat) : Nat :=
  (if 1 < t then 64 * bitOf z 0 + 128 * bitOf z 1 else 0) + (if t = 8 then 256 * bitOf z 2 else 0)

/-- `PixelIndex(x, y, z, bpp, t)` (R164). -/
def pixelIndex (x y z bpp t : Nat) : Nat := gatherBits x y (pixelOrder bpp) + sliceBits z t

/-- The result of PIXIDX (R163). -/
def pixidxResult (m : MWord) (x y z : Word) : Except Status (List Word) :=
  if m.rsv ≠ 0#3 then .error .illegalCommand
  else
    match tmOf m.tileMode with
    | none => .error .unsupportedTileMode
    | some t =>
      if m.bpp = 0#8 then .error .badOperand
      else .ok [word32 (pixelIndex x.toNat y.toNat z.toNat m.bpp.toNat (tmThickness t))]

/-- PIXIDX (R163). -/
def execPixidx (m : MWord) (x y z : Word) (s : State) : Host.Outcome State Fault Refusal :=
  .next (answer .pixidx (pixidxResult m x y z) s)

/-! ### Micro-tiled -/

/-- `AddrMicro` (R166). -/
def addrMicro (x y slice bpp pitch height : Nat) (t : TileMode) : Nat :=
  let th := tmThickness t
  let pixelOffset := (bpp * pixelIndex x y slice bpp th) >>> 3
  let microTileBytes := th * ceilDiv (bpp * 64) 8
  let tiles := (x >>> 3) + (pitch >>> 3) * (y >>> 3)
  let sliceOffset := slice / th * ceilDiv (pitch * height * th * bpp) 8
  pixelOffset + microTileBytes * tiles + sliceOffset

/-- The result of ADDRMIC (R165). -/
def addrmicResult (m : MWord) (a : AddrArgs) : Except Status (List Word) :=
  if m.rsv ≠ 0#3 then .error .illegalCommand
  else
    match tmOf m.tileMode with
    | none => .error .unsupportedTileMode
    | some t =>
      if tmFamily t ≠ .micro ∨ m.bpp = 0#8 then .error .badOperand
      else
        offsetResult (addrMicro a.x.toNat a.y.toNat a.slice.toNat m.bpp.toNat a.pitch.toNat a.height.toNat t)

/-- ADDRMIC (R165). -/
def execAddrmic (m : MWord) (a : AddrArgs) (s : State) : Host.Outcome State Fault Refusal :=
  .next (answer .addrmic (addrmicResult m a) s)

/-! ### Pipe and bank -/

/-- `Pipe0(x, y)` (R168). -/
def pipe0 (hw : Config.Profile) (x y : Nat) : Nat := ((y >>> 3) ^^^ (x >>> 3)) &&& (hw.numPipes - 1)

/-- `Bank0(x, y)` for 8 banks, and for 4 (R171). Another number of banks is excluded by R8 (log entry 14). -/
def bank0 (hw : Config.Profile) (x y : Nat) : Nat :=
  if hw.numBanks = 8 then
    let b0 := ((y / (32 * hw.numPipes)) ^^^ (x >>> 3)) &&& 1
    let b1 := ((y / (32 * hw.numPipes)) ^^^ (y / (16 * hw.numPipes)) ^^^ (x >>> 4)) &&& 1
    let b2 := ((y / (8 * hw.numPipes)) ^^^ (x >>> 5)) &&& 1
    b0 ||| (b1 <<< 1) ||| (b2 <<< 2)
  else
    let b0 := ((y / (16 * hw.numPipes)) ^^^ (x >>> 3)) &&& 1
    let b1 := ((y / (8 * hw.numPipes)) ^^^ (x >>> 4)) &&& 1
    b0 ||| (b1 <<< 1)

/-- `bankPipe` of `Combine`, after the XOR and the reduction (R172). -/
def combine (hw : Config.Profile) (p b slice : Nat) (t : TileMode) (ps bs : Nat) : Nat :=
  let swizzle := ps + hw.numPipes * bs
  let sliceIn := if tmThick t then slice / 4 else slice
  ((p + hw.numPipes * b) ^^^ (swizzle + sliceIn * rotation hw t)) % (hw.numPipes * hw.numBanks)

/-- `BankSwap(bank, x, m, bpp, pitch)` (R173). -/
def bankSwap (hw : Config.Profile) (bank x : Nat) (t : TileMode) (bpp pitch : Nat) : Nat :=
  if tmSwapped t then
    let mtw := (macroTileDims hw t).1
    let swapIndex := mtw * (x / mtw) / bankSwappedWidth hw t bpp 1 pitch
    bank ^^^ bankSwapOrder.getD (swapIndex &&& (hw.numBanks - 1)) 0
  else bank

/-- The four results of `PipeBank` (R170). -/
structure PipeBank where
  pipe0 : Nat
  bank0 : Nat
  pipe : Nat
  bank : Nat
deriving DecidableEq, Repr

/-- `PipeBank` (R170). -/
def pipeBank (hw : Config.Profile) (x y slice : Nat) (t : TileMode) (bpp pitch ps bs : Nat) : PipeBank :=
  let bp := combine hw (pipe0 hw x y) (bank0 hw x y) slice t ps bs
  { pipe0 := pipe0 hw x y
    bank0 := bank0 hw x y
    pipe := bp % hw.numPipes
    bank := bankSwap hw (bp / hw.numPipes) x t bpp pitch }

/-- The operand checks PIPEBANK and ADDRMAC share, in the order of R174 and R176 (R167, R175): the macro mode, or the
exception. -/
def macroChecks (m : MWord) (a : AddrArgs) : Except Status TileMode :=
  if m.rsv ≠ 0#3 then .error .illegalCommand
  else
    match tmOf m.tileMode with
    | none => .error .unsupportedTileMode
    | some t =>
      if m.sampleCount ≠ 1#4 then .error .unsupportedSampleCount
      else if a.pitch = 0#32 then .error .invalidDimensions
      else if tmMacro t = false ∨ m.bpp = 0#8 ∨ a.sample ≠ 0#32 then .error .badOperand
      else .ok t

/-- The result word of PIPEBANK (R174). -/
def pipeBankWord (p : PipeBank) : Word :=
  word32 (p.pipe ||| (p.bank <<< 4) ||| (p.pipe0 <<< 8) ||| (p.bank0 <<< 12))

/-- The result of PIPEBANK (R174). -/
def pipebankResult (m : MWord) (a : AddrArgs) : Except Status (List Word) :=
  match macroChecks m a with
  | .error c => .error c
  | .ok t =>
    .ok [pipeBankWord (pipeBank profile a.x.toNat a.y.toNat a.slice.toNat t m.bpp.toNat a.pitch.toNat
      m.pipeSwizzle.toNat m.bankSwizzle.toNat)]

/-- PIPEBANK (R174). -/
def execPipebank (m : MWord) (a : AddrArgs) (s : State) : Host.Outcome State Fault Refusal :=
  .next (answer .pipebank (pipebankResult m a) s)

/-! ### Macro-tiled -/

/-- The byte offset inside the macro-tiled surface before pipe and bank are interleaved: `total` of R177. -/
def macroTotal (hw : Config.Profile) (x y slice bpp pitch height : Nat) (t : TileMode) : Nat :=
  let th := tmThickness t
  let elemOffset := ceilDiv (bpp * pixelIndex x y slice bpp th) 8
  let sliceOffset := ceilDiv (height * pitch * th * bpp) 8 * (slice / th)
  let mtw := (macroTileDims hw t).1
  let mth := (macroTileDims hw t).2
  let macroTileOffset := (x / mtw + pitch / mtw * (y / mth)) * macroTileBytes hw t bpp 1
  elemOffset + ((macroTileOffset + sliceOffset) >>> (hw.numBankBits + hw.numPipeBits))

/-- The final interleave of R177: the group bits of `total` lowest, then pipe, then bank, then the rest of `total`. -/
def interleave (hw : Config.Profile) (total pipe bank : Nat) : Nat :=
  let low := total &&& ((1 <<< hw.numGroupBits) - 1)
  let high := (total - low) <<< (hw.numBankBits + hw.numPipeBits)
  (bank <<< (hw.numPipeBits + hw.numGroupBits)) ||| (pipe <<< hw.numGroupBits) ||| low ||| high

/-- `AddrMacro` (R177). -/
def addrMacro (hw : Config.Profile) (x y slice bpp pitch height : Nat) (t : TileMode) (ps bs : Nat) : Nat :=
  let pb := pipeBank hw x y slice t bpp pitch ps bs
  interleave hw (macroTotal hw x y slice bpp pitch height t) pb.pipe pb.bank

/-- The result of ADDRMAC (R176). -/
def addrmacResult (m : MWord) (a : AddrArgs) : Except Status (List Word) :=
  match macroChecks m a with
  | .error c => .error c
  | .ok t =>
    offsetResult (addrMacro profile a.x.toNat a.y.toNat a.slice.toNat m.bpp.toNat a.pitch.toNat a.height.toNat t
      m.pipeSwizzle.toNat m.bankSwizzle.toNat)

/-- ADDRMAC (R176). -/
def execAddrmac (m : MWord) (a : AddrArgs) (s : State) : Host.Outcome State Fault Refusal :=
  .next (answer .addrmac (addrmacResult m a) s)

end Sys2Proof.Machine
end

