-- ==== Sys2Proof/Machine/Swizzle.lean ====
section
/-! DEFINITION. The swizzle commands SWZ and DSWZ (spec/44_swizzle.md). -/

namespace Sys2Proof.Machine

open Sys2Proof

/-- Which way the elements go (R195): SWZ to the tiled buffer, DSWZ to the linear one. -/
inductive Dir where
  | toTiled | toLinear
deriving DecidableEq, Repr

/-- The operands of one SWZ or DSWZ as the loop uses them (R190, R191, R193). -/
structure Job where
  mode : TileMode
  bpp : Nat
  pitch : Nat
  surfHeight : Nat
  surfDepth : Nat
  ps : Nat
  bs : Nat
  /-- Bytes of one element (R191). -/
  n : Nat
  /-- Elements of a row (R193). -/
  wI : Nat
  /-- Rows (R193). -/
  hI : Nat
  linBase : Nat
  linLen : Nat
  tiledBase : Nat
  tiledLen : Nat
deriving DecidableEq, Repr

/-- An image dimension in elements (R193). -/
def elemCount (v : Nat) (isBC : Bool) : Nat := if isBC then ceilDiv v 4 else v

/-- The operands as the loop uses them (R190, R191, R193). -/
def jobOf (m : MWord) (t : TileMode) (a : SwzArgs) : Job where
  mode := t
  bpp := m.bpp.toNat
  pitch := a.pitch.toNat
  surfHeight := a.surfHeight.toNat
  surfDepth := a.surfDepth.toNat
  ps := swizzlePipe a.swizzleValue
  bs := swizzleBank a.swizzleValue
  n := m.bpp.toNat / 8
  wI := elemCount a.width.toNat (m.isBC == 1#1)
  hI := elemCount a.height.toNat (m.isBC == 1#1)
  linBase := a.linBase.toNat
  linLen := a.linLen.toNat
  tiledBase := a.tiledBase.toNat
  tiledLen := a.tiledLen.toNat

/-- Whether a buffer reaches above the top of memory, or the two overlap (R192). -/
def badBuffers (a : SwzArgs) : Bool :=
  memSize < a.linBase.toNat + a.linLen.toNat || memSize < a.tiledBase.toNat + a.tiledLen.toNat
    || (0 < a.linLen.toNat && 0 < a.tiledLen.toNat
        && a.linBase.toNat < a.tiledBase.toNat + a.tiledLen.toNat
        && a.tiledBase.toNat < a.linBase.toNat + a.linLen.toNat)

/-- The checks of SWZ and DSWZ, all before the first memory access (R198): what the loop works on, or the exception. -/
def swzChecks (m : MWord) (a : SwzArgs) : Except Status Job :=
  if m.rsv ≠ 0#3 then .error .illegalCommand
  else
    match tmOf m.tileMode with
    | none => .error .unsupportedTileMode
    | some t =>
      if a.width = 0#32 ∨ a.height = 0#32 ∨ a.pitch = 0#32 then .error .invalidDimensions
      else if m.bpp.toNat < 8 ∨ m.bpp.toNat % 8 ≠ 0 ∨ badBuffers a then .error .badOperand
      else .ok (jobOf m t a)

/-- `LinearOffset(x, y)` (R193). -/
def linearOffset (j : Job) (x y : Nat) : Nat := (y * j.wI + x) * j.n

/-- `TiledOffset(x, y)` (R193): slice 0, sample 0, by the family of the tile mode. -/
def tiledOffset (hw : Config.Profile) (j : Job) (x y : Nat) : Nat :=
  match tmFamily j.mode with
  | .linear => addrLinear x y 0 0 j.surfDepth j.bpp j.pitch j.surfHeight
  | .micro => addrMicro x y 0 j.bpp j.pitch j.surfHeight j.mode
  | .macroTiled => addrMacro hw x y 0 j.bpp j.pitch j.surfHeight j.mode j.ps j.bs

/-- `InBounds(x, y)`: the whole span lies inside both buffers (R194). -/
def inBounds (hw : Config.Profile) (j : Job) (x y : Nat) : Bool :=
  linearOffset j x y + j.n ≤ j.linLen && tiledOffset hw j x y + j.n ≤ j.tiledLen

/-- The address an element is read from (R195). -/
def srcAddr (hw : Config.Profile) (d : Dir) (j : Job) (x y : Nat) : Nat :=
  match d with
  | .toTiled => j.linBase + linearOffset j x y
  | .toLinear => j.tiledBase + tiledOffset hw j x y

/-- The address an element is written to (R195). -/
def dstAddr (hw : Config.Profile) (d : Dir) (j : Job) (x y : Nat) : Nat :=
  match d with
  | .toTiled => j.tiledBase + tiledOffset hw j x y
  | .toLinear => j.linBase + linearOffset j x y

/-- The loop state at the start: coordinate (0, 0), both counters 0 (R27). -/
def startLoop (s : State) : State := { s with loop := { x := 0, y := 0, copied := 0#64, skipped := 0#64 } }

/-- The coordinate moves on: `x` ascending within `y` ascending (R197). -/
def advance (j : Job) (l : Loop) : Loop :=
  if l.x + 1 < j.wI then { l with x := l.x + 1 } else { l with x := 0, y := l.y + 1 }

/-- An element was copied (R196). -/
def countCopied (j : Job) (s : State) : State :=
  { s with loop := advance j { s.loop with copied := s.loop.copied + 1#64 } }

/-- An element was skipped (R196). -/
def countSkipped (j : Job) (s : State) : State :=
  { s with loop := advance j { s.loop with skipped := s.loop.skipped + 1#64 } }

/-- The element at the loop's coordinate: copied when in bounds, skipped otherwise (R194, R195). `error` carries the
state in which RESET cut the command off (R231). -/
def oneElement (hw : Config.Profile) (d : Dir) (j : Job) (s : State) : Except State State :=
  if inBounds hw j s.loop.x s.loop.y then
    match memRead (srcAddr hw d j s.loop.x s.loop.y) j.n s with
    | .error s₁ => .error s₁
    | .ok (v, s₁) =>
      match memWrite (dstAddr hw d j s.loop.x s.loop.y) v s₁ with
      | .error s₂ => .error s₂
      | .ok s₂ => .ok (countCopied j s₂)
  else .ok (countSkipped j s)

/-- The next `k` elements (R198). -/
def elements (hw : Config.Profile) (d : Dir) (j : Job) : Nat → State → Except State State
  | 0, s => .ok s
  | k + 1, s =>
    match oneElement hw d j s with
    | .error s₁ => .error s₁
    | .ok s₁ => elements hw d j k s₁

/-- The result words of SWZ and DSWZ: the two counters, low words first (R67). -/
def counterWords (l : Loop) : List Word := words64 l.copied.toNat ++ words64 l.skipped.toNat

/-- The end of the loop: the response, with BTS when an element was skipped, and the loop state discarded (R196, R27). -/
def finishSwz (op : Op) (s : State) : State :=
  complete op (btsFlags s.loop.skipped) (counterWords s.loop) (discardLoop s)

/-- A SWZ or DSWZ from its checks to its end, or to the RESET that cuts it off (R198, R199, R202, R231). -/
def runSwz (op : Op) (d : Dir) (m : MWord) (a : SwzArgs) (s : State) : State :=
  match swzChecks m a with
  | .error c => raise op.code c s
  | .ok j =>
    match elements profile d j (j.wI * j.hI) (startLoop s) with
    | .error s₁ => inReset s₁
    | .ok s₁ => finishSwz op s₁

/-- SWZ (R198). -/
def execSwz (m : MWord) (a : SwzArgs) (s : State) : Host.Outcome State Fault Refusal :=
  .next (runSwz .swz .toTiled m a s)

/-- DSWZ (R199). -/
def execDswz (m : MWord) (a : SwzArgs) (s : State) : Host.Outcome State Fault Refusal :=
  .next (runSwz .dswz .toLinear m a s)

end Sys2Proof.Machine
end

