-- ==== Sys2Proof/Machine/TableCommands.lean ====
section
/-! DEFINITION. The table commands RDPROF, FMTINFO and TMPROP (spec/40_tables.md R90, R95, R98). -/

namespace Sys2Proof.Machine

open Sys2Proof

/-- The nine result words of RDPROF, in the order of R90. -/
def profileWords (hw : Config.Profile) : List Word :=
  [word32 hw.numPipes, word32 hw.numBanks, word32 hw.pipeInterleaveBytes, word32 hw.rowSize, word32 hw.swapSize,
   word32 hw.splitSize, word32 hw.numPipeBits, word32 hw.numBankBits, word32 hw.numGroupBits]

/-- RDPROF (R90): always OK. -/
def execRdprof (s : State) : Host.Outcome State Fault Refusal :=
  .next (answer .rdprof (.ok (profileWords profile)) s)

/-- The result word of FMTINFO (R95). -/
def fmtinfoWord (f : FormatInfo) : Word := word32 (f.bitsPerPixel ||| (f.isBlockCompressed.toNat <<< 8))

/-- The result of FMTINFO (R95). -/
def fmtinfoResult (code : Word) : Except Status (List Word) :=
  match fmt? code with
  | none => .error .unsupportedFormat
  | some f => .ok [fmtinfoWord f]

/-- FMTINFO (R95). -/
def execFmtinfo (code : Word) (s : State) : Host.Outcome State Fault Refusal :=
  .next (answer .fmtinfo (fmtinfoResult code) s)

/-- The result word of TMPROP (R98). -/
def tmpropWord (t : TileMode) : Word :=
  word32 (tmThickness t ||| ((tmMacro t).toNat <<< 4) ||| ((tmSwapped t).toNat <<< 5) ||| (tmAspect t <<< 8))

/-- The result of TMPROP (R98). -/
def tmpropResult (m : MWord) : Except Status (List Word) :=
  if m.rsv ≠ 0#3 then .error .illegalCommand
  else
    match tmOf m.tileMode with
    | none => .error .unsupportedTileMode
    | some t => .ok [tmpropWord t]

/-- TMPROP (R98). -/
def execTmprop (m : MWord) (s : State) : Host.Outcome State Fault Refusal :=
  .next (answer .tmprop (tmpropResult m) s)

end Sys2Proof.Machine
end

