-- ==== Sys2Proof/Machine/Dispatch.lean ====
section
/-! DEFINITION. One arm per command (spec/30_encoding.md R69). -/

namespace Sys2Proof.Machine

open Sys2Proof

def exec (i : Instr) (s : State) : Host.Outcome State Fault Refusal :=
  match i with
  | .rdprof => Sys2Proof.Machine.execRdprof s
  | .fmtinfo formatCode => Sys2Proof.Machine.execFmtinfo formatCode s
  | .tmprop m => Sys2Proof.Machine.execTmprop m s
  | .tmresolve m width height depth => Sys2Proof.Machine.execTmresolve m width height depth s
  | .mtgeom m => Sys2Proof.Machine.execMtgeom m s
  | .align m => Sys2Proof.Machine.execAlign m s
  | .bswidth m pitch => Sys2Proof.Machine.execBswidth m pitch s
  | .surfinfo m width height depth formatCode => Sys2Proof.Machine.execSurfinfo m width height depth formatCode s
  | .addrlin m a => Sys2Proof.Machine.execAddrlin m a s
  | .pixidx m x y z => Sys2Proof.Machine.execPixidx m x y z s
  | .addrmic m a => Sys2Proof.Machine.execAddrmic m a s
  | .pipebank m a => Sys2Proof.Machine.execPipebank m a s
  | .addrmac m a => Sys2Proof.Machine.execAddrmac m a s
  | .swz m a => Sys2Proof.Machine.execSwz m a s
  | .dswz m a => Sys2Proof.Machine.execDswz m a s

end Sys2Proof.Machine
end

