-- ==== Sys2Proof/Machine/Step.lean ====
section
/-! DEFINITION. One step of the machine: one transition of PHASE, or RESET (spec/10_state.md R26,
spec/70_reset_and_hazards.md R230, R241). -/

namespace Sys2Proof.Machine

open Sys2Proof

/-- One step. RESET asserted: the reset state (R230). IDLE: a header word is taken (R60). RECV: an operand word is taken.
EXEC: the command REQ holds runs. SEND: a response word is taken by the host. Where the word or the host is missing the
block waits and the state stays as it is (R235, R237). -/
def step (s : State) : Host.Outcome State Fault Refusal :=
  if s.resetIn then .next (inReset s)
  else
    match s.phase with
    | .idle => .next (takeHeader s)
    | .recv =>
      match Op.ofCode s.req.opc with
      | none => .fault .noCommand
      | some op => .next (takeOperand op s)
    | .exec =>
      match s.req.instr? with
      | none => .fault .noCommand
      | some i => exec i s
    | .send => .next (drain s)

/-- `s` with the packet whose bits are the low `nbits` bits of `w` just received whole, so that the next step runs its
command (log entry 10). -/
def State.withFetchWord (s : State) (nbits w : Nat) : State := presentPacket (tableWords nbits w) s

end Sys2Proof.Machine
end

