-- ==== Sys2Proof/Machine/HostPort.lean ====
section
/-! DEFINITION. What the host can do between two steps (spec/30_encoding.md R60, R61, spec/20_memory.md R40,
spec/70_reset_and_hazards.md R230). -/

namespace Sys2Proof.Machine

open Sys2Proof

/-- The host presents words on CMD, behind those already waiting (R60). -/
def hostSend (ws : List Word) (s : State) : State := { s with cmdQ := s.cmdQ ++ ws }

/-- The host starts or stops taking response words (R61, R237). -/
def hostReady (b : Bool) (s : State) : State := { s with rspReady := b }

/-- The host drives the RESET input (R230). -/
def hostReset (b : Bool) (s : State) : State := { s with resetIn := b }

/-- The host writes one byte of its memory (R40). -/
def hostWrite (a : BitVec 32) (b : Byte) (s : State) : State := { s with mem := memSet s.mem a.toNat b }

/-- The host writes consecutive bytes from address `a` on, where they lie below `2^32` (R40, R41). -/
def hostFill (a : Nat) (bs : List Byte) (s : State) : State :=
  if a + bs.length ≤ memSize then { s with mem := memSetSpan s.mem a bs } else s

end Sys2Proof.Machine
end

