-- ==== Sys2Proof/Safety.lean ====
section
/-! DEFINITION. What counts as a good state and a good response, in the terms the statements use: the response words as
spec/30_encoding.md R66 lays them out, the invariant of the machine, the exception matrix of spec/60_exceptions.md R218
and a host that stays away from a running command (spec/93_implementation_defined.md U2). -/

namespace Sys2Proof.Machine

open Sys2Proof

/-- `s` after the response with these header fields and result words has been put together: PHASE is SEND, RSP holds the
response, its words wait on the RSP channel, and nothing else has changed (R25, R26, R66). -/
def responded (opc flags status : BitVec 8) (ws : List Word) (s : State) : State :=
  { s with
    phase := .send
    rsp := { opc := opc, flags := flags, status := status, words := ws }
    rspQ := (opc ++ 0x00#8 ++ flags ++ status) :: ws }

/-- `s` after a command completed with these result words, FLAGS zero (R66). -/
def okResponse (opc : BitVec 8) (ws : List Word) (s : State) : State := responded opc 0x00#8 0x00#8 ws s

/-- `s` after a command raised the exception of code `code`: the header alone (R211, R212). -/
def errResponse (opc code : BitVec 8) (s : State) : State := responded opc 0x00#8 code [] s

/-- The STATUS codes the block produces: all of R210 but `0x06` (R216). -/
def producedStatus : List (BitVec 8) := [0x00#8, 0x01#8, 0x02#8, 0x03#8, 0x04#8, 0x05#8, 0x07#8, 0x08#8]

/-- A response as R66 allows it: a produced STATUS; FLAGS zero but for BTS, which only an OK response has; no result word
unless STATUS is OK. -/
def rspLegal (r : Rsp) : Prop :=
  r.status ∈ producedStatus ∧ (r.flags = 0x00#8 ∨ (r.flags = 0x01#8 ∧ r.status = 0x00#8))
    ∧ (r.status ≠ 0x00#8 → r.words = [])

/-- What each PHASE says of the rest of the state (R26): how many words are owed, whether REQ holds a legal opcode, and
what waits on the RSP channel. -/
def phaseInv (s : State) : Prop :=
  match s.phase with
  | .idle => s.owed = 0 ∧ s.rspQ = []
  | .recv => s.rspQ = [] ∧ 1 ≤ s.owed ∧ ∃ op, Op.ofCode s.req.opc = some op ∧ s.owed ≤ op.format.operandWords
  | .exec => s.rspQ = [] ∧ s.owed = 0 ∧ ∃ op, Op.ofCode s.req.opc = some op
  | .send => s.owed = 0 ∧ s.rspQ ≠ [] ∧ s.rspQ <:+ rspWords s.rsp ∧ rspLegal s.rsp

/-- The invariant of the machine: the memory keeps its canonical form, RSP holds at most 11 result words (R25), and PHASE
agrees with the latches and the RSP channel. -/
structure State.Inv (s : State) : Prop where
  mem : memWf s.mem = true
  rsp : s.rsp.words.length ≤ 11
  phase : phaseInv s

/-- The host stays away while a command runs, and RESET is released (spec/20_memory.md R49 (b), U2). That its turns stand in
`hostTurns` is the model's choice (log entry 9). -/
def quiet (s : State) : Prop := s.hostTurns = [] ∧ s.resetIn = false

/-- No turn of the host asserts RESET. -/
def noReset (turns : List (List HostAct)) : Prop := ∀ t ∈ turns, HostAct.assertReset ∉ t

/-- The host writes address `a` in one of the turns. -/
def hostWrites (turns : List (List HostAct)) (a : Nat) : Prop :=
  ∃ t ∈ turns, ∃ b c, HostAct.write b c ∈ t ∧ b.toNat = a

/-- The tile-mode field names no tile mode (R63). -/
def badMode (m : MWord) : Prop := 17 ≤ m.tileMode.toNat

/-- The tile-mode field names a mode outside the codes `lo` to `hi`. -/
def modeOutside (m : MWord) (lo hi : Nat) : Prop := m.tileMode.toNat < lo ∨ hi < m.tileMode.toNat

/-- The format code is a key of the format table of R94. -/
def knownFormat (c : Word) : Prop :=
  c.toNat ∈ [0x001, 0x002, 0x007, 0x008, 0x00A, 0x00B, 0x019, 0x01A, 0x41A, 0x031, 0x431, 0x032, 0x432, 0x033, 0x433,
    0x034, 0x234, 0x035, 0x235]

/-- The overlap and range conditions of R192, on the exact sums. -/
def buffersBad (a : SwzArgs) : Prop :=
  2 ^ 32 < a.linBase.toNat + a.linLen.toNat ∨ 2 ^ 32 < a.tiledBase.toNat + a.tiledLen.toNat
    ∨ (0 < a.linLen.toNat ∧ 0 < a.tiledLen.toNat ∧ a.linBase.toNat < a.tiledBase.toNat + a.tiledLen.toNat
        ∧ a.tiledBase.toNat < a.linBase.toNat + a.linLen.toNat)

/-- The causes of codes 01 to 07 for each command, in ascending code order: R218's matrix with the causes of R213 and
R214. -/
def causes : Instr → List (BitVec 8 × Prop)
  | .rdprof => []
  | .fmtinfo c => [(0x02#8, ¬ knownFormat c)]
  | .tmprop m => [(0x01#8, m.rsv ≠ 0#3), (0x03#8, badMode m)]
  | .tmresolve m _ _ _ =>
    [(0x01#8, m.rsv ≠ 0#3), (0x03#8, badMode m), (0x04#8, m.sampleCount = 0#4), (0x07#8, m.bpp = 0#8)]
  | .mtgeom m =>
    [(0x01#8, m.rsv ≠ 0#3), (0x03#8, badMode m), (0x04#8, m.sampleCount = 0#4),
     (0x07#8, modeOutside m 4 15 ∨ m.bpp = 0#8)]
  | .align m =>
    [(0x01#8, m.rsv ≠ 0#3), (0x03#8, badMode m), (0x04#8, m.sampleCount = 0#4), (0x07#8, m.bpp = 0#8)]
  | .bswidth m p =>
    [(0x01#8, m.rsv ≠ 0#3), (0x03#8, badMode m), (0x04#8, m.sampleCount = 0#4), (0x05#8, p = 0#32),
     (0x07#8, m.bpp = 0#8)]
  | .surfinfo m w h _ c =>
    [(0x01#8, m.rsv ≠ 0#3), (0x02#8, ¬ knownFormat c), (0x03#8, badMode m), (0x04#8, m.sampleCount ≠ 1#4),
     (0x05#8, w = 0#32 ∨ h = 0#32 ∨ 14 ≤ m.mipLevel.toNat)]
  | .addrlin m _ => [(0x01#8, m.rsv ≠ 0#3), (0x07#8, m.bpp = 0#8)]
  | .pixidx m _ _ _ => [(0x01#8, m.rsv ≠ 0#3), (0x03#8, badMode m), (0x07#8, m.bpp = 0#8)]
  | .addrmic m _ => [(0x01#8, m.rsv ≠ 0#3), (0x03#8, badMode m), (0x07#8, modeOutside m 2 3 ∨ m.bpp = 0#8)]
  | .pipebank m a =>
    [(0x01#8, m.rsv ≠ 0#3), (0x03#8, badMode m), (0x04#8, m.sampleCount ≠ 1#4), (0x05#8, a.pitch = 0#32),
     (0x07#8, modeOutside m 4 15 ∨ m.bpp = 0#8 ∨ a.sample ≠ 0#32)]
  | .addrmac m a =>
    [(0x01#8, m.rsv ≠ 0#3), (0x03#8, badMode m), (0x04#8, m.sampleCount ≠ 1#4), (0x05#8, a.pitch = 0#32),
     (0x07#8, modeOutside m 4 15 ∨ m.bpp = 0#8 ∨ a.sample ≠ 0#32)]
  | .swz m a =>
    [(0x01#8, m.rsv ≠ 0#3), (0x03#8, badMode m), (0x05#8, a.width = 0#32 ∨ a.height = 0#32 ∨ a.pitch = 0#32),
     (0x07#8, m.bpp.toNat < 8 ∨ m.bpp.toNat % 8 ≠ 0 ∨ buffersBad a)]
  | .dswz m a =>
    [(0x01#8, m.rsv ≠ 0#3), (0x03#8, badMode m), (0x05#8, a.width = 0#32 ∨ a.height = 0#32 ∨ a.pitch = 0#32),
     (0x07#8, m.bpp.toNat < 8 ∨ m.bpp.toNat % 8 ≠ 0 ∨ buffersBad a)]

/-- `c` is the code of the first cause that applies. -/
def firstCause : List (BitVec 8 × Prop) → BitVec 8 → Prop
  | [], _ => False
  | (c, p) :: rest, d => (p ∧ d = c) ∨ (¬ p ∧ firstCause rest d)

/-- None of the operand checks of a command fails. -/
def operandsGood (i : Instr) : Prop := ∀ c ∈ causes i, ¬ c.2

/-- The command reports the first of its operand checks that fails, and does nothing else (R217, R212). -/
def reportsFirstFailure (i : Instr) (s : State) : Prop :=
  ∀ c, firstCause (causes i) c → exec i s = .next (errResponse i.op.code c s)

/-- The codes each command can raise: the rows of the exception matrix (R218). -/
def matrixRow : Op → List (BitVec 8)
  | .rdprof => []
  | .fmtinfo => [0x02#8]
  | .tmprop => [0x01#8, 0x03#8]
  | .tmresolve => [0x01#8, 0x03#8, 0x04#8, 0x07#8]
  | .mtgeom => [0x01#8, 0x03#8, 0x04#8, 0x07#8]
  | .align => [0x01#8, 0x03#8, 0x04#8, 0x07#8]
  | .bswidth => [0x01#8, 0x03#8, 0x04#8, 0x05#8, 0x07#8]
  | .surfinfo => [0x01#8, 0x02#8, 0x03#8, 0x04#8, 0x05#8, 0x08#8]
  | .addrlin => [0x01#8, 0x07#8, 0x08#8]
  | .pixidx => [0x01#8, 0x03#8, 0x07#8]
  | .addrmic => [0x01#8, 0x03#8, 0x07#8, 0x08#8]
  | .pipebank => [0x01#8, 0x03#8, 0x04#8, 0x05#8, 0x07#8]
  | .addrmac => [0x01#8, 0x03#8, 0x04#8, 0x05#8, 0x07#8, 0x08#8]
  | .swz => [0x01#8, 0x03#8, 0x05#8, 0x07#8]
  | .dswz => [0x01#8, 0x03#8, 0x05#8, 0x07#8]

/-- The number of result words of each command that answers OK (spec/30_encoding.md R67). -/
def resultCount : Op → Nat
  | .rdprof => 9
  | .fmtinfo => 1
  | .tmprop => 1
  | .tmresolve => 1
  | .mtgeom => 3
  | .align => 6
  | .bswidth => 1
  | .surfinfo => 11
  | .addrlin => 2
  | .pixidx => 1
  | .addrmic => 2
  | .pipebank => 1
  | .addrmac => 2
  | .swz => 4
  | .dswz => 4

/-! ### The tables of the spec over mode codes -/

/-- The thickness column of spec/40_tables.md R97. -/
def codeThickness (c : Nat) : Nat := if c ∈ [3, 7, 11, 13, 15] then 4 else 1

/-- The aspect column of R97. -/
def codeAspect (c : Nat) : Nat := if c ∈ [5, 9] then 2 else if c ∈ [6, 10] then 4 else 1

/-- The isBankSwapped column of R97. -/
abbrev codeSwapped (c : Nat) : Prop := c ∈ [8, 9, 10, 11, 14, 15]

/-- The nonBS column of R97. -/
def codeSibling (c : Nat) : Nat :=
  if 8 ≤ c ∧ c ≤ 11 then c - 4 else if c = 14 then 12 else if c = 15 then 13 else c

/-- The column `mipLevel > 0` of the table of spec/41_tilemode_resolver.md R121, for the modes that are not bank-swapped,
over the padded sizes. -/
def resolvedAtMip (c wP hP dP : Nat) : Nat :=
  if c = 3 then if dP < 4 then 2 else 3
  else if c = 4 ∨ c = 12 then if wP < 32 ∨ hP < 16 then 2 else c
  else if c = 5 then if wP < 16 ∨ hP < 32 then 2 else 5
  else if c = 6 then if wP < 8 ∨ hP < 64 then 2 else 6
  else if c = 7 ∨ c = 13 then
    if wP < 32 ∨ hP < 16 then if dP < 4 then 2 else 3
    else if dP < 4 then if c = 7 then 4 else 12 else c
  else c

/-- The table of R121: the mode code `Resolve` returns on the default profile. -/
def resolvedCode (c bpp mipLevel w h d ns : Nat) (isDepthBuffer : Bool) : Nat :=
  if mipLevel = 0 then
    if (c ∈ [8, 9, 10, 14] ∧ (isDepthBuffer = true ∨ 1 < ns))
        ∨ (c ∈ [11, 15] ∧ (isDepthBuffer = true ∨ 1 < ns ∨ 86 ≤ bpp)) then codeSibling c
    else c
  else resolvedAtMip (codeSibling c) (nextPow2 w) (nextPow2 h) (nextPow2 d)

/-! ### The elements of a SWZ or DSWZ, numbered in the order of spec/20_memory.md R47 -/

/-- Element `k` is `(k mod wI, k / wI)`; whether it is copied (spec/44_swizzle.md R194). -/
def elemIn (j : Job) (k : Nat) : Bool := inBounds profile j (k % j.wI) (k / j.wI)

/-- The address element `k` is read from (R195). -/
def elemSrc (d : Dir) (j : Job) (k : Nat) : Nat := srcAddr profile d j (k % j.wI) (k / j.wI)

/-- The address element `k` is written to (R195). -/
def elemDst (d : Dir) (j : Job) (k : Nat) : Nat := dstAddr profile d j (k % j.wI) (k / j.wI)

/-- Element `k` is copied, and `a` is one of the bytes it is written to. -/
def elemCovers (d : Dir) (j : Job) (k a : Nat) : Prop :=
  k < j.wI * j.hI ∧ elemIn j k = true ∧ elemDst d j k ≤ a ∧ a < elemDst d j k + j.n

/-- How many elements are copied (R196). -/
def copiedCount (j : Job) : Nat := (List.range (j.wI * j.hI)).countP (elemIn j)

/-- RSP of a SWZ or DSWZ that ended (R66, R67, R196). -/
def swzRsp (opc : BitVec 8) (j : Job) : Rsp where
  opc := opc
  flags := if copiedCount j = j.wI * j.hI then 0x00#8 else 0x01#8
  status := 0x00#8
  words :=
    [BitVec.ofNat 32 (copiedCount j), BitVec.ofNat 32 (copiedCount j / 2 ^ 32),
     BitVec.ofNat 32 (j.wI * j.hI - copiedCount j), BitVec.ofNat 32 ((j.wI * j.hI - copiedCount j) / 2 ^ 32)]

/-- The byte accesses of element `k`, in order: `none` for a read, the destination and the source address for a write. -/
def elemAccesses (d : Dir) (j : Job) (k : Nat) : List (Option (Nat × Nat)) :=
  if elemIn j k then
    List.replicate j.n none ++ (List.range j.n).map fun i => some (elemDst d j k + i, elemSrc d j k + i)
  else []

/-- All byte accesses of the command, in the order of R47. -/
def loopAccesses (d : Dir) (j : Job) : List (Option (Nat × Nat)) :=
  (List.range (j.wI * j.hI)).flatMap (elemAccesses d j)

/-- The memory after these accesses, the source bytes being those of `m₀`. -/
def applyAccesses (m₀ : Memory) (as : List (Option (Nat × Nat))) (m : Memory) : Memory :=
  as.foldl (fun m a =>
    match a with
    | none => m
    | some (dst, src) => memSet m dst (memGet m₀ src)) m

end Sys2Proof.Machine
end

