-- ==== Sys2Proof/Certificates/Slice0/Obligations.lean ====
section
/-! DEFINITION. The statements about the surface-address generator. Every one of them is about all states it names, the
states no run reaches among them, but where `State.Inv` is assumed. -/

section Statements

open Sys2Proof Sys2Proof.Machine

/-! ### Reset, the invariant, and the transitions of PHASE -/

/-- spec/10_state.md R31, spec/70_reset_and_hazards.md R232: after reset PHASE is IDLE and no response word is pending. -/
def Obligations.ResetStateIsIdleWithNothingPending : Prop :=
  State.reset.phase = .idle ∧ State.reset.rspQ = []

/-- The reset state meets the invariant of the machine. -/
def Obligations.ResetStateMeetsInvariant : Prop := State.reset.Inv

/-- Every step from every state of the invariant ends in a state of the invariant: the memory keeps its canonical form, RSP
holds at most 11 result words (R25), PHASE agrees with the latches and with what waits on the RSP channel (R26), and a
response being sent is one R66 allows. -/
def Obligations.EveryStepKeepsInvariant : Prop :=
  ∀ s t : State, s.Inv → step s = .next t → t.Inv

/-- The block never stops: from a state of the invariant every step answers a next state (an exception is a response,
spec/60_exceptions.md R220). -/
def Obligations.EveryStepFromInvariantAnswersNext : Prop :=
  ∀ s : State, s.Inv → ∃ t, step s = .next t

/-- R26: the transitions of PHASE, and no other. In IDLE and RECV a word is taken from CMD when there is one; in EXEC and
SEND none is. A command leaves EXEC for SEND, but for a SWZ or DSWZ that RESET cuts off. -/
def Obligations.PhaseTransitionsAreThoseListed : Prop :=
  ∀ s t : State, s.Inv → s.resetIn = false → step s = .next t →
    match s.phase with
    | .idle =>
      match s.cmdQ with
      | [] => t = s
      | w :: ws => t.cmdQ = ws ∧
          ((Op.ofHeader w = none ∧ t.phase = .send) ∨
            ∃ op, Op.ofHeader w = some op ∧ t.owed = op.format.operandWords ∧
              t.phase = if op.format.operandWords = 0 then .exec else .recv)
    | .recv =>
      match s.cmdQ with
      | [] => t = s
      | _ :: ws => t.cmdQ = ws ∧ t.owed = s.owed - 1 ∧ t.phase = if s.owed = 1 then .exec else .recv
    | .exec => t.cmdQ = s.cmdQ ∧
        (t.phase = .send ∨
          ((s.req.opc = 0x40#8 ∨ s.req.opc = 0x41#8) ∧ t.phase = .idle ∧ t.resetIn = true))
    | .send => t.cmdQ = s.cmdQ ∧
        (if s.rspReady then t.phase = if s.rspQ.length = 1 then .idle else .send else t = s)

/-- R60: a word is taken from CMD only in IDLE and RECV, and then it is the first one. -/
def Obligations.CommandWordsTakenInOrder : Prop :=
  ∀ s t : State, step s = .next t →
    (t.cmdQ = s.cmdQ ∨
      (s.resetIn = false ∧ (s.phase = .idle ∨ s.phase = .recv) ∧ ∃ w, s.cmdQ = w :: t.cmdQ)) ∧
    (s.resetIn = false → (s.phase = .idle ∨ s.phase = .recv) → ∀ w ws, s.cmdQ = w :: ws → t.cmdQ = ws)

/-- R61: the host gets response words in SEND alone, one at a time, from the front, and only when it takes them. -/
def Obligations.ResponseWordsTakenInOrder : Prop :=
  ∀ s t : State, step s = .next t →
    t.rspTaken = s.rspTaken ∨
      (s.resetIn = false ∧ s.phase = .send ∧ s.rspReady = true ∧
        ∃ w, s.rspQ = w :: t.rspQ ∧ t.rspTaken = s.rspTaken ++ [w])

/-- R61, R26: a host that keeps taking words gets every word of the response, in order, and then the block is in IDLE; CMD
and the memory have not changed. -/
def Obligations.WholeResponseDrains : Prop :=
  ∀ s : State, s.phase = .send → s.resetIn = false → s.rspReady = true → s.rspQ ≠ [] →
    ∃ t : State, Host.Core.run Sys2Proof.core s.rspQ.length s = .next t ∧
      t.phase = .idle ∧ t.rspQ = [] ∧ t.rspTaken = s.rspTaken ++ s.rspQ ∧ t.cmdQ = s.cmdQ ∧ t.mem = s.mem

/-- R230, R231: with RESET asserted a step takes no command word, delivers no response word and leaves the memory alone;
PHASE becomes IDLE with nothing pending. -/
def Obligations.ResetInputDropsTheCommand : Prop :=
  ∀ s : State, s.resetIn = true →
    ∃ t, step s = .next t ∧ t.phase = .idle ∧ t.rspQ = [] ∧ t.owed = 0 ∧ t.resetIn = true ∧ t.mem = s.mem ∧
      t.cmdQ = s.cmdQ ∧ t.rspTaken = s.rspTaken

/-- R235, R237: a block that waits, for a command word or for the host to take a response word, changes nothing. -/
def Obligations.WaitingBlockChangesNothing : Prop :=
  ∀ s : State, s.Inv → s.resetIn = false →
    ((s.phase = .idle ∨ s.phase = .recv) ∧ s.cmdQ = []) ∨ (s.phase = .send ∧ s.rspReady = false) →
    step s = .next s

/-! ### Encoding -/

/-- Every command is read back from its packet, every operand at every value, and the words behind the packet are left
over (R62 to R65). -/
def Obligations.DecodeEncodeRoundTrip : Prop :=
  ∀ (i : Instr) (rest : List Word), decode (encode i ++ rest) = .ok (i, rest)

/-- A packet that decodes is the encoding of the command it decodes to: no bit of it is dropped (R62 to R65). -/
def Obligations.EncodeDecodeRoundTrip : Prop :=
  ∀ (ws : List Word) (i : Instr) (rest : List Word), decode ws = .ok (i, rest) → encode i ++ rest = ws

/-- R70: a word taken in IDLE is a legal header exactly when its low 24 bits are 0 and its high byte is one of the fifteen
opcodes; any other word alone is consumed and answered with IllegalCommand under its high byte. -/
def Obligations.HeaderLegalOrAnsweredIllegal : Prop :=
  ∀ (s : State) (w : Word) (ws : List Word),
    s.resetIn = false → s.phase = .idle → s.cmdQ = w :: ws →
      if w.extractLsb' 0 24 = 0#24 ∧
          w.extractLsb' 24 8 ∈ [0x01#8, 0x02#8, 0x03#8, 0x10#8, 0x20#8, 0x21#8, 0x22#8, 0x23#8, 0x30#8, 0x31#8, 0x32#8,
            0x33#8, 0x34#8, 0x40#8, 0x41#8] then
        ∃ op : Op, op.code = w.extractLsb' 24 8 ∧
          step s = .next { s with
            cmdQ := ws
            req := { s.req with opc := w.extractLsb' 24 8 }
            owed := op.format.operandWords
            phase := if op.format.operandWords = 0 then .exec else .recv }
      else step s = .next (errResponse (w.extractLsb' 24 8) 0x01#8 { s with cmdQ := ws })

/-- R71: reserved M-word bits that are not zero make the command answer IllegalCommand, whatever its other operands; the
whole packet is consumed. -/
def Obligations.ReservedBitsAnswerIllegal : Prop :=
  ∀ (i : Instr) (m : MWord) (s : State), i.mword? = some m → m.rsv ≠ 0#3 →
    decode (encode i) = .ok (i, []) ∧ exec i s = .next (errResponse i.op.code 0x01#8 s)

/-- Packets written out in the spec (R69, R95, R98, R118, R131, R138, R75, R174, R198) decode to the commands they stand for. -/
def Obligations.WorkedPacketsDecode : Prop :=
  decodeTableWord 32 0x01000000 = some .rdprof ∧
  decode [0x02000000#32, 0x0000001A#32] = .ok (.fmtinfo 0x1A#32, []) ∧
  decode [0x03000000#32, 0x0000000B#32] = .ok (.tmprop ⟨11#5, 0#3, 0#4, 0#4, 0#1, 0#1, 0#2, 0#1, 0#3, 0#8⟩, []) ∧
  decode [0x10000000#32, 0x20001204#32, 0x10#32, 0x10#32, 0x1#32] =
    .ok (.tmresolve ⟨4#5, 0#3, 2#4, 1#4, 0#1, 0#1, 0#2, 0#1, 0#3, 32#8⟩ 16#32 16#32 1#32, []) ∧
  decode [0x20000000#32, 0x20001004#32] = .ok (.mtgeom ⟨4#5, 0#3, 0#4, 1#4, 0#1, 0#1, 0#2, 0#1, 0#3, 32#8⟩, []) ∧
  decode [0x22000000#32, 0x20001008#32, 0x40#32] =
    .ok (.bswidth ⟨8#5, 0#3, 0#4, 1#4, 0#1, 0#1, 0#2, 0#1, 0#3, 32#8⟩ 64#32, []) ∧
  decode [0x23000000#32, 0x00001021#32, 0x40#32, 0x40#32, 0x1#32, 0x1A#32] =
    .ok (.surfinfo ⟨1#5, 1#3, 0#4, 1#4, 0#1, 0#1, 0#2, 0#1, 0#3, 0#8⟩ 64#32 64#32 1#32 0x1A#32, []) ∧
  decode [0x33000000#32, 0x200A1004#32, 40#32, 24#32, 0#32, 0#32, 64#32, 0#32, 0#32] =
    .ok (.pipebank ⟨4#5, 0#3, 0#4, 1#4, 0#1, 1#1, 2#2, 0#1, 0#3, 32#8⟩ ⟨40#32, 24#32, 0#32, 0#32, 64#32, 0#32, 0#32⟩, []) ∧
  decode [0x40000000#32, 0x08000002#32, 8#32, 8#32, 32#32, 8#32, 1#32, 0#32, 0x1000#32, 0x40#32, 0x2000#32, 0x100#32] =
    .ok (.swz ⟨2#5, 0#3, 0#4, 0#4, 0#1, 0#1, 0#2, 0#1, 0#3, 8#8⟩
      ⟨8#32, 8#32, 32#32, 8#32, 1#32, 0#32, 0x1000#32, 0x40#32, 0x2000#32, 0x100#32⟩, [])

/-- A step runs the decoded command: when the packet at the front of `ws` has arrived whole, PHASE is EXEC and the next step
is what the command does in that state. -/
def Obligations.StepRunsTheDecodedCommand : Prop :=
  ∀ (s : State) (ws rest : List Word) (i : Instr), decode ws = .ok (i, rest) →
    (presentPacket ws s).phase = .exec ∧ (presentPacket ws s).resetIn = false ∧
      step (presentPacket ws s) = exec i (presentPacket ws s)

/-- From IDLE, as many steps as the packet has words take it from CMD (R26, R60); then the next step runs its command.
Nothing but CMD, PHASE and REQ has changed on the way, and no operand word is owed any more. -/
def Obligations.PacketOnCmdRunsItsCommand : Prop :=
  ∀ (s : State) (i : Instr) (rest : List Word),
    s.phase = .idle → s.resetIn = false → decode s.cmdQ = .ok (i, rest) →
      ∃ t : State, Host.Core.run Sys2Proof.core (1 + i.op.format.operandWords) s = .next t ∧
        t = { s with phase := .exec, cmdQ := rest, req := t.req, owed := 0 } ∧
        t.req.opc = i.op.code ∧ step t = exec i t

/-! ### Exceptions and responses -/

/-- R217: every command reports the first of its checks that fails, in the ascending order of the codes, before anything
else. -/
def Obligations.FirstFailingCheckIsReported : Prop :=
  ∀ (i : Instr) (s : State), reportsFirstFailure i s

/-- R218: the statuses a command can answer with, besides OK, are those of its row of the matrix, each of them. -/
def Obligations.ExceptionMatrixIsExact : Prop :=
  (∀ (i : Instr) (s t : State), exec i s = .next t → t.phase = .send → t.rsp.status ≠ 0x00#8 →
    t.rsp.status ∈ matrixRow i.op) ∧
  (∀ (op : Op) (c : BitVec 8), c ∈ matrixRow op →
    ∃ (i : Instr) (s t : State), i.op = op ∧ exec i s = .next t ∧ t.phase = .send ∧ t.rsp.status = c)

/-- R212, R220: a command that raises an exception changes nothing but PHASE and the response, which is the header alone. -/
def Obligations.ExceptionHasNoOtherEffect : Prop :=
  ∀ (i : Instr) (s t : State), exec i s = .next t → t.phase = .send → t.rsp.status ≠ 0x00#8 →
    t = errResponse i.op.code t.rsp.status s

/-- R66, R67: the words of every response. The header's fields; BTS exactly for a SWZ or DSWZ that skipped an element;
result words, and as many as R67 lists, exactly with STATUS OK. -/
def Obligations.ResponseHasItsLayout : Prop :=
  ∀ (i : Instr) (s t : State), exec i s = .next t → t.phase = .send →
    ∃ (h : Word) (ws : List Word), t.rspQ = h :: ws ∧
      h.extractLsb' 24 8 = i.op.code ∧ h.extractLsb' 16 8 = 0#8 ∧ h.extractLsb' 9 7 = 0#7 ∧
      h.extractLsb' 0 8 ∈ producedStatus ∧
      (h.extractLsb' 8 1 = 1#1 ↔
        (i.op = .swz ∨ i.op = .dswz) ∧ h.extractLsb' 0 8 = 0x00#8 ∧ (ws.getD 2 0#32 ≠ 0#32 ∨ ws.getD 3 0#32 ≠ 0#32)) ∧
      (h.extractLsb' 0 8 ≠ 0x00#8 → ws = []) ∧
      (h.extractLsb' 0 8 = 0x00#8 → ws.length = resultCount i.op)

/-! ### What commands leave alone -/

/-- R14, R20, R40: every command but SWZ and DSWZ changes PHASE and the response and nothing else: REQ, the loop state, the
memory, the channels and the inputs stay. -/
def Obligations.OtherCommandsChangeTheResponseOnly : Prop :=
  ∀ (i : Instr) (s t : State), i.op ≠ .swz → i.op ≠ .dswz → exec i s = .next t →
    t = { s with phase := .send, rsp := t.rsp, rspQ := t.rspQ }

/-- R40: a step changes the memory only while a SWZ or DSWZ is executed. -/
def Obligations.MemoryChangesOnlyInSwzAndDswz : Prop :=
  ∀ s t : State, step s = .next t → t.mem ≠ s.mem →
    s.resetIn = false ∧ s.phase = .exec ∧ (s.req.opc = 0x40#8 ∨ s.req.opc = 0x41#8)

/-- R24: REQ is written only by the arrival of command words: while a command is executed and its response sent it stays. (When
PHASE returns to IDLE it is unspecified again, log entry 6.) -/
def Obligations.ReqStaysUntilTheResponseIsSent : Prop :=
  ∀ s t : State, step s = .next t → s.phase = .exec ∨ s.phase = .send → t.phase ≠ .idle → t.req = s.req

/-- R27, R232: the loop state a command finds is never read: SWZ and DSWZ start from (0, 0) and zero counters. -/
def Obligations.LoopStateOfBeforeIsNeverRead : Prop :=
  ∀ (i : Instr) (s t : State) (l : Loop), exec i s = .next t →
    ∃ t', exec i { s with loop := l } = .next t' ∧ t'.phase = t.phase ∧ t'.mem = t.mem ∧ t'.rspQ = t.rspQ ∧
      t'.hostTurns = t.hostTurns ∧ t'.hostSaw = t.hostSaw ∧ t'.resetIn = t.resetIn ∧ (t.phase = .send → t'.rsp = t.rsp)

/-- R14: a command's response is a function of its packet; SWZ and DSWZ, with a host that stays away (R49 (b); `quiet`, whose
host turns are the model's own field, log entry 9), are functions of the packet and of what the two buffers hold. -/
def Obligations.ResultsDependOnPacketAndBuffersAlone : Prop :=
  (∀ (i : Instr) (s s' t t' : State), quiet s → quiet s' → exec i s = .next t → exec i s' = .next t' → t.rsp = t'.rsp) ∧
  (∀ (i : Instr) (m : MWord) (a : SwzArgs) (s s' t t' : State), i = .swz m a ∨ i = .dswz m a →
    quiet s → quiet s' → memWf s.mem = true → memWf s'.mem = true →
    let inBuffers := fun b : Nat =>
      (a.linBase.toNat ≤ b ∧ b < a.linBase.toNat + a.linLen.toNat) ∨
        (a.tiledBase.toNat ≤ b ∧ b < a.tiledBase.toNat + a.tiledLen.toNat)
    (∀ b, inBuffers b → memGet s.mem b = memGet s'.mem b) →
    exec i s = .next t → exec i s' = .next t' →
    ∀ b, inBuffers b → memGet t.mem b = memGet t'.mem b)

/-! ### The table commands -/

/-- R90: RDPROF answers the nine constants, always OK. -/
def Obligations.RdprofAnswersTheProfile : Prop :=
  ∀ s : State, exec .rdprof s = .next (okResponse 0x01#8 [2#32, 4#32, 256#32, 2048#32, 256#32, 2048#32, 1#32, 2#32, 8#32] s)

/-- R95 with the table of R94: FMTINFO answers bits per pixel and the block-compressed bit of each of the 19 codes, and
UnsupportedFormat to every other code. -/
def Obligations.FmtinfoAnswersTheFormatTable : Prop :=
  (∀ p ∈ [(0x001, 8), (0x002, 8), (0x007, 16), (0x008, 16), (0x00A, 16), (0x00B, 16), (0x019, 32), (0x01A, 32), (0x41A, 32),
      (0x031, 0x140), (0x431, 0x140), (0x032, 0x180), (0x432, 0x180), (0x033, 0x180), (0x433, 0x180), (0x034, 0x140),
      (0x234, 0x140), (0x035, 0x180), ((0x235, 0x180) : Nat × Nat)],
    ∀ s : State, exec (.fmtinfo (BitVec.ofNat 32 p.1)) s = .next (okResponse 0x02#8 [BitVec.ofNat 32 p.2] s)) ∧
  (∀ (c : Word) (s : State), ¬ knownFormat c → exec (.fmtinfo c) s = .next (errResponse 0x02#8 0x02#8 s))

/-- R98: the result word of TMPROP for each of the 17 modes, and its two exceptions. -/
def Obligations.TmpropAnswersTheModeTable : Prop :=
  ∀ (m : MWord) (s : State),
    (m.rsv = 0#3 → m.tileMode.toNat ≤ 16 →
      exec (.tmprop m) s = .next (okResponse 0x03#8
        [[0x101#32, 0x101#32, 0x101#32, 0x104#32, 0x111#32, 0x211#32, 0x411#32, 0x114#32, 0x131#32, 0x231#32, 0x431#32,
          0x134#32, 0x111#32, 0x114#32, 0x131#32, 0x134#32, 0x101#32].getD m.tileMode.toNat 0#32] s)) ∧
    (m.rsv ≠ 0#3 → exec (.tmprop m) s = .next (errResponse 0x03#8 0x01#8 s)) ∧
    (m.rsv = 0#3 → 17 ≤ m.tileMode.toNat → exec (.tmprop m) s = .next (errResponse 0x03#8 0x03#8 s))

/-! ### The resolver -/

/-- R121, R118: TMRESOLVE answers the mode of the table of results on the default profile, or the first check that fails. -/
def Obligations.TmresolveAnswersTheResultTable : Prop :=
  ∀ (m : MWord) (w h d : Word) (s : State),
    (m.rsv = 0#3 → m.tileMode.toNat ≤ 16 → m.sampleCount ≠ 0#4 → m.bpp ≠ 0#8 →
      exec (.tmresolve m w h d) s = .next (okResponse 0x10#8
        [BitVec.ofNat 32 (resolvedCode m.tileMode.toNat m.bpp.toNat m.mipLevel.toNat w.toNat h.toNat d.toNat
          m.sampleCount.toNat (m.isDepthBuffer == 1#1))] s)) ∧
    reportsFirstFailure (.tmresolve m w h d) s

/-- R120, for every profile: the mode never grows to a higher family; linear modes and mode 2 stay, mode 3 can only become 2;
four passes are always enough; at level 0 the dimensions have no influence; above level 0 the result is not bank-swapped. -/
def Obligations.ResolverOnlySimplifies : Prop :=
  ∀ (hw : Config.Profile) (q : ResolveArgs) (t : TileMode),
    familyRank (tmFamily (resolve hw q t)) ≤ familyRank (tmFamily t) ∧
    (tmFamily t = .linear ∨ t = .tiled1DThin1 → resolve hw q t = t) ∧
    (t = .tiled1DThick → resolve hw q t = .tiled1DThick ∨ resolve hw q t = .tiled1DThin1) ∧
    resolvePass hw q (resolve hw q t) = resolve hw q t ∧
    (q.mipLevel = 0 → ∀ w h d : Nat, resolve hw { q with width := w, height := h, depth := d } t = resolve hw q t) ∧
    (0 < q.mipLevel → tmSwapped (resolve hw q t) = false)

/-- R117: on the default profile one pass brings the result and a second confirms it. -/
def Obligations.ResolverNeedsTwoPassesAtMost : Prop :=
  ∀ (q : ResolveArgs) (t : TileMode),
    resolve profile q t = resolvePass profile q t ∧
      resolvePass profile q (resolvePass profile q t) = resolvePass profile q t

/-! ### Geometry -/

/-- R131 with R119 and R130 on the default profile: MTGEOM answers the macro-tile's width, height and bytes, or the first
check that fails. -/
def Obligations.MtgeomAnswersTheMacroTile : Prop :=
  ∀ (m : MWord) (s : State),
    (m.rsv = 0#3 → 4 ≤ m.tileMode.toNat → m.tileMode.toNat ≤ 15 → m.sampleCount ≠ 0#4 → m.bpp ≠ 0#8 →
      exec (.mtgeom m) s = .next (okResponse 0x20#8
        [BitVec.ofNat 32 (32 / codeAspect m.tileMode.toNat), BitVec.ofNat 32 (16 * codeAspect m.tileMode.toNat),
         BitVec.ofNat 32 (64 * m.sampleCount.toNat * codeThickness m.tileMode.toNat * m.bpp.toNat)] s)) ∧
    reportsFirstFailure (.mtgeom m) s

/-- R136 with R132 to R135 on the default profile: the six words of ALIGN for each family of modes, or the first check that
fails. -/
def Obligations.AlignAnswersTheAlignments : Prop :=
  ∀ (m : MWord) (s : State),
    (m.rsv = 0#3 → m.tileMode.toNat ≤ 16 → m.sampleCount ≠ 0#4 → m.bpp ≠ 0#8 →
      let c := m.tileMode.toNat
      let bpp := m.bpp.toNat
      let ns := m.sampleCount.toNat
      let th := codeThickness c
      let mtw := 32 / codeAspect c
      let mth := 16 * codeAspect c
      let pa := max mtw (mtw * (256 / bpp / (8 * th) / ns))
      let microBytes := th * ns * bpp * 8
      let perSplit := if microBytes < 2048 then 1 else microBytes / 2048
      exec (.align m) s = .next (okResponse 0x21#8
        (if c = 1 then [256#32, BitVec.ofNat 32 (max 64 (2048 / bpp)), 1#32, 1#32, 0#32, 0#32]
          else if c = 0 ∨ c = 16 then [1#32, 1#32, 1#32, 1#32, 0#32, 0#32]
          else if c = 2 ∨ c = 3 then
            [256#32, BitVec.ofNat 32 (max 8 (256 / bpp / ns / th)), 8#32, BitVec.ofNat 32 th, 0#32, 0#32]
          else
            [BitVec.ofNat 32 (max (ns * (bpp * 64)) (ns * mth * bpp * pa / 8) / perSplit), BitVec.ofNat 32 pa,
             BitVec.ofNat 32 mth, BitVec.ofNat 32 th, BitVec.ofNat 32 mtw, BitVec.ofNat 32 mth]) s)) ∧
    reportsFirstFailure (.align m) s

/-- R138 with R137 on the default profile: BSWIDTH answers 0 for a mode that is not bank-swapped; for one that is, the start
value halved as often as it takes, and no oftener, to be below twice the pitch; or the first check that fails. -/
def Obligations.BswidthAnswersTheHalvedWidth : Prop :=
  ∀ (m : MWord) (pitch : Word) (s : State),
    (m.rsv = 0#3 → m.tileMode.toNat ≤ 16 → m.sampleCount ≠ 0#4 → pitch ≠ 0#32 → m.bpp ≠ 0#8 →
      (¬ codeSwapped m.tileMode.toNat → exec (.bswidth m pitch) s = .next (okResponse 0x22#8 [0#32] s)) ∧
      (codeSwapped m.tileMode.toNat →
        let bpp := m.bpp.toNat
        let ns := m.sampleCount.toNat
        let slices := max 1 (ns / (256 / bpp))
        let ns' := if codeThickness m.tileMode.toNat = 4 then 4 else ns
        let v := min (16384 / (ns' * codeAspect m.tileMode.toNat * 2 * bpp / slices))
          (max (8192 / (ns' * (8 * bpp) / slices)) (max 1 (128 / bpp) * 32))
        ∃ k, exec (.bswidth m pitch) s = .next (okResponse 0x22#8 [BitVec.ofNat 32 (v / 2 ^ k)] s) ∧
          1 ≤ v / 2 ^ k ∧ v / 2 ^ k < 2 * pitch.toNat ∧ ∀ j < k, 2 * pitch.toNat ≤ v / 2 ^ j)) ∧
    reportsFirstFailure (.bswidth m pitch) s

/-- R140 with R142 to R147: SURFINFO answers the eleven words of the geometry, or Overflow when one of them does not fit, or
the first check that fails. `fmt?`, `resolve`, `aligns` and `bankSwappedWidth` are what FMTINFO, TMRESOLVE, ALIGN and BSWIDTH
answer with. -/
def Obligations.SurfinfoAnswersTheGeometry : Prop :=
  ∀ (m : MWord) (width height depth code : Word) (s : State),
    (m.rsv = 0#3 → m.sampleCount = 1#4 → width ≠ 0#32 → height ≠ 0#32 → m.mipLevel.toNat ≤ 13 →
      ∀ f t, fmt? code = some f → tmOf m.tileMode = some t →
      let mip := m.mipLevel.toNat
      let bpp := f.bitsPerPixel
      let shrink := fun v : Nat => if 0 < mip then nextPow2 (max 1 (v / 2 ^ mip)) else max 1 (v / 2 ^ mip)
      let elems := fun v : Nat =>
        if f.isBlockCompressed then max 1 ((shrink ((v + 3) / 4 * 4) + 3) / 4) else shrink v
      let w := elems width.toNat
      let h := elems height.toNat
      let d := shrink depth.toNat
      let em := resolve profile ⟨bpp, mip, w, h, d, 1, m.isDepthBuffer == 1#1⟩ t
      let al := aligns profile em bpp 1
      let pa := if tmSwapped em then max al.pitch (bankSwappedWidth profile em bpp 1 w) else al.pitch
      let pitch := (w + pa - 1) / pa * pa
      let ph := (h + al.height - 1) / al.height * al.height
      let pd := if tmThickness em = 4 then (d + 3) / 4 * 4 else d
      let size := (ph * pitch * pd * bpp + 7) / 8
      (pitch < 2 ^ 32 → ph < 2 ^ 32 → pd < 2 ^ 32 → size < 2 ^ 64 →
        exec (.surfinfo m width height depth code) s = .next (okResponse 0x23#8
          [BitVec.ofNat 32 pitch, BitVec.ofNat 32 ph, BitVec.ofNat 32 pd, BitVec.ofNat 32 bpp, BitVec.ofNat 32 size,
           BitVec.ofNat 32 (size / 2 ^ 32), BitVec.ofNat 32 (tmCode em), BitVec.ofNat 32 al.base, BitVec.ofNat 32 pa,
           BitVec.ofNat 32 al.height, BitVec.ofNat 32 al.depth] s)) ∧
      (2 ^ 32 ≤ pitch ∨ 2 ^ 32 ≤ ph ∨ 2 ^ 32 ≤ pd ∨ 2 ^ 64 ≤ size →
        exec (.surfinfo m width height depth code) s = .next (errResponse 0x23#8 0x08#8 s))) ∧
    reportsFirstFailure (.surfinfo m width height depth code) s

/-- R149: what holds of every SURFINFO response with STATUS OK. `w`, `h` and `d` are the dimensions of step 1. -/
def Obligations.SurfinfoResultIsAligned : Prop :=
  ∀ (m : MWord) (width height depth code : Word) (s u : State) (f : FormatInfo) (t : TileMode),
    exec (.surfinfo m width height depth code) s = .next u → u.rsp.status = 0x00#8 →
    fmt? code = some f → tmOf m.tileMode = some t →
      let dims := mipDims width.toNat height.toNat depth.toNat m.mipLevel.toNat f.isBlockCompressed
      ∃ (pitch h d bpp lo hi em base pa ha da : Word) (e : TileMode),
        u.rsp.words = [pitch, h, d, bpp, lo, hi, em, base, pa, ha, da] ∧
        pitch.toNat % pa.toNat = 0 ∧ h.toNat % ha.toNat = 0 ∧ 0 < pa.toNat ∧ 0 < ha.toNat ∧
        lo.toNat + 2 ^ 32 * hi.toNat = (pitch.toNat * h.toNat * d.toNat * bpp.toNat + 7) / 8 ∧
        em.toNat = tmCode e ∧ da.toNat = tmThickness e ∧ familyRank (tmFamily e) ≤ familyRank (tmFamily t) ∧
        dims.width ≤ pitch.toNat ∧ dims.height ≤ h.toNat ∧ dims.depth ≤ d.toNat

/-! ### Addresses -/

/-- R160, R161: ADDRLIN answers the byte offset of the linear formula, or Overflow, or the first check that fails. -/
def Obligations.AddrlinAnswersTheLinearOffset : Prop :=
  ∀ (m : MWord) (a : AddrArgs) (s : State),
    (m.rsv = 0#3 → m.bpp ≠ 0#8 →
      let off := (a.x.toNat + a.pitch.toNat * a.y.toNat
        + a.height.toNat * a.pitch.toNat * (a.slice.toNat + a.depthSlices.toNat * a.sample.toNat)) * m.bpp.toNat / 8
      (off < 2 ^ 64 →
        exec (.addrlin m a) s = .next (okResponse 0x30#8 [BitVec.ofNat 32 off, BitVec.ofNat 32 (off / 2 ^ 32)] s)) ∧
      (2 ^ 64 ≤ off → exec (.addrlin m a) s = .next (errResponse 0x30#8 0x08#8 s))) ∧
    reportsFirstFailure (.addrlin m a) s

/-- R163, R164: PIXIDX answers the index whose bits the table of R164 names, or the first check that fails. -/
def Obligations.PixidxAnswersThePermutedBits : Prop :=
  ∀ (m : MWord) (x y z : Word) (s : State),
    (m.rsv = 0#3 → m.tileMode.toNat ≤ 16 → m.bpp ≠ 0#8 →
      let b := fun (v : Word) (i : Nat) => v.toNat / 2 ^ i % 2
      let low :=
        if m.bpp = 8#8 then b x 0 + 2 * b x 1 + 4 * b x 2 + 8 * b y 1 + 16 * b y 0 + 32 * b y 2
        else if m.bpp = 16#8 then b x 0 + 2 * b x 1 + 4 * b x 2 + 8 * b y 0 + 16 * b y 1 + 32 * b y 2
        else if m.bpp = 64#8 then b x 0 + 2 * b y 0 + 4 * b x 1 + 8 * b x 2 + 16 * b y 1 + 32 * b y 2
        else if m.bpp = 128#8 then b y 0 + 2 * b x 0 + 4 * b x 1 + 8 * b x 2 + 16 * b y 1 + 32 * b y 2
        else b x 0 + 2 * b x 1 + 4 * b y 0 + 8 * b x 2 + 16 * b y 1 + 32 * b y 2
      let high := if codeThickness m.tileMode.toNat = 4 then 64 * b z 0 + 128 * b z 1 else 0
      exec (.pixidx m x y z) s = .next (okResponse 0x31#8 [BitVec.ofNat 32 (low + high)] s)) ∧
    reportsFirstFailure (.pixidx m x y z) s

/-- R164: for each element size the 64 coordinates of a micro-tile map onto 0 to 63, each once; only the low three bits of
a coordinate count. -/
def Obligations.PixelIndexIsBijective : Prop :=
  ∀ bpp t : Nat,
    (∀ x y z, pixelIndex x y z bpp t = pixelIndex (x % 8) (y % 8) (z % 8) bpp t) ∧
    (∀ x y, x < 8 → y < 8 → pixelIndex x y 0 bpp t < 64) ∧
    (∀ v, v < 64 → ∃ x y, x < 8 ∧ y < 8 ∧ pixelIndex x y 0 bpp t = v ∧
      ∀ x' y', x' < 8 → y' < 8 → pixelIndex x' y' 0 bpp t = v → x' = x ∧ y' = y)

/-- R165, R166: ADDRMIC answers the byte offset of the micro-tiled formula, or Overflow, or the first check that fails.
`pixelIndex` is what PIXIDX answers with. -/
def Obligations.AddrmicAnswersTheMicroTiledOffset : Prop :=
  ∀ (m : MWord) (a : AddrArgs) (s : State),
    (m.rsv = 0#3 → m.tileMode = 2#5 ∨ m.tileMode = 3#5 → m.bpp ≠ 0#8 →
      let th := codeThickness m.tileMode.toNat
      let bpp := m.bpp.toNat
      let off := bpp * pixelIndex a.x.toNat a.y.toNat a.slice.toNat bpp th / 8
        + th * (8 * bpp) * (a.x.toNat / 8 + a.pitch.toNat / 8 * (a.y.toNat / 8))
        + a.slice.toNat / th * ((a.pitch.toNat * a.height.toNat * th * bpp + 7) / 8)
      (off < 2 ^ 64 →
        exec (.addrmic m a) s = .next (okResponse 0x32#8 [BitVec.ofNat 32 off, BitVec.ofNat 32 (off / 2 ^ 32)] s)) ∧
      (2 ^ 64 ≤ off → exec (.addrmic m a) s = .next (errResponse 0x32#8 0x08#8 s))) ∧
    reportsFirstFailure (.addrmic m a) s

/-- R174 with R168 and R170 to R173 on the default profile: PIPEBANK answers pipe and bank before and after swizzle, rotation
and bank swap, or the first check that fails. `bankSwappedWidth` is what BSWIDTH answers with. -/
def Obligations.PipebankAnswersPipeAndBank : Prop :=
  ∀ (m : MWord) (a : AddrArgs) (s : State) (t : TileMode),
    (m.rsv = 0#3 → 4 ≤ m.tileMode.toNat → m.tileMode.toNat ≤ 15 → tmOf m.tileMode = some t → m.sampleCount = 1#4 →
      a.pitch ≠ 0#32 → m.bpp ≠ 0#8 → a.sample = 0#32 →
      let x := a.x.toNat
      let y := a.y.toNat
      let c := m.tileMode.toNat
      let p0 := (x / 8 + y / 8) % 2
      let b0 := (x / 8 + y / 32) % 2 + 2 * ((x / 16 + y / 16) % 2)
      let turn := (if codeThickness c = 4 then a.slice.toNat / 4 else a.slice.toNat) * (if c ≤ 11 then 2 else 1)
      let pb := ((p0 + 2 * b0) ^^^ (m.pipeSwizzle.toNat + 2 * m.bankSwizzle.toNat + turn)) % 8
      let mtw := 32 / codeAspect c
      let swap :=
        if codeSwapped c then
          [0, 1, 3, 2].getD (mtw * (x / mtw) / bankSwappedWidth profile t m.bpp.toNat 1 a.pitch.toNat % 4) 0
        else 0
      exec (.pipebank m a) s = .next (okResponse 0x33#8
        [BitVec.ofNat 32 (pb % 2 + 16 * (pb / 2 ^^^ swap) + 256 * p0 + 4096 * b0)] s)) ∧
    reportsFirstFailure (.pipebank m a) s

/-- R176, R177 on the default profile: ADDRMAC answers the byte offset: the low eight bits of `total`, then the pipe, then the
bank, then the rest of `total`; or Overflow, or the first check that fails. `pipeBank` is what PIPEBANK answers with. -/
def Obligations.AddrmacAnswersTheMacroTiledOffset : Prop :=
  ∀ (m : MWord) (a : AddrArgs) (s : State) (t : TileMode),
    (m.rsv = 0#3 → 4 ≤ m.tileMode.toNat → m.tileMode.toNat ≤ 15 → tmOf m.tileMode = some t → m.sampleCount = 1#4 →
      a.pitch ≠ 0#32 → m.bpp ≠ 0#8 → a.sample = 0#32 →
      let c := m.tileMode.toNat
      let bpp := m.bpp.toNat
      let th := codeThickness c
      let mtw := 32 / codeAspect c
      let mth := 16 * codeAspect c
      let elem := (bpp * pixelIndex a.x.toNat a.y.toNat a.slice.toNat bpp th + 7) / 8
      let tile := (a.x.toNat / mtw + a.pitch.toNat / mtw * (a.y.toNat / mth)) * (64 * th * bpp)
      let slices := (a.height.toNat * a.pitch.toNat * th * bpp + 7) / 8 * (a.slice.toNat / th)
      let total := elem + (tile + slices) / 8
      let pb := pipeBank profile a.x.toNat a.y.toNat a.slice.toNat t bpp a.pitch.toNat m.pipeSwizzle.toNat
        m.bankSwizzle.toNat
      let off := total % 256 + 256 * pb.pipe + 512 * pb.bank + 2048 * (total / 256)
      (off < 2 ^ 64 →
        exec (.addrmac m a) s = .next (okResponse 0x34#8 [BitVec.ofNat 32 off, BitVec.ofNat 32 (off / 2 ^ 32)] s)) ∧
      (2 ^ 64 ≤ off → exec (.addrmac m a) s = .next (errResponse 0x34#8 0x08#8 s))) ∧
    reportsFirstFailure (.addrmac m a) s

/-- R170: the four results of `PipeBank`, and that pipe and bank stay below the profile's counts, for every profile R8
allows. -/
def Obligations.PipeAndBankStayInRange : Prop :=
  ∀ (hw : Config.Profile) (x y slice : Nat) (t : TileMode) (bpp pitch ps bs : Nat), hw.wf = true →
    let r := pipeBank hw x y slice t bpp pitch ps bs
    r.pipe0 = pipe0 hw x y ∧ r.bank0 = bank0 hw x y ∧
    r.pipe = combine hw (pipe0 hw x y) (bank0 hw x y) slice t ps bs % hw.numPipes ∧
    r.bank = bankSwap hw (combine hw (pipe0 hw x y) (bank0 hw x y) slice t ps bs / hw.numPipes) x t bpp pitch ∧
    r.pipe < hw.numPipes ∧ r.bank < hw.numBanks

/-- R177's last step, for every profile R8 allows: the interleaved offset as a sum of disjoint fields. -/
def Obligations.InterleaveIsASumOfFields : Prop :=
  ∀ (hw : Config.Profile) (total pipe bank : Nat), hw.wf = true → pipe < hw.numPipes → bank < hw.numBanks →
    interleave hw total pipe bank =
      total % hw.pipeInterleaveBytes +
        hw.pipeInterleaveBytes * (pipe + hw.numPipes * (bank + hw.numBanks * (total / hw.pipeInterleaveBytes)))

/-- R178 for the linear modes, all sizes: the spans of the elements of one sample lie inside the surface and are pairwise
disjoint. -/
def Obligations.LinearSpansTileTheSurface : Prop :=
  ∀ (bpp pitch height depth : Nat), 8 ≤ bpp → bpp % 8 = 0 →
    ∀ x y z, x < pitch → y < height → z < depth →
      addrLinear x y z 0 depth bpp pitch height + bpp / 8 ≤ pitch * height * depth * bpp / 8 ∧
      ∀ x' y' z', x' < pitch → y' < height → z' < depth → ¬ (x = x' ∧ y = y' ∧ z = z') →
        addrLinear x y z 0 depth bpp pitch height + bpp / 8 ≤ addrLinear x' y' z' 0 depth bpp pitch height ∨
        addrLinear x' y' z' 0 depth bpp pitch height + bpp / 8 ≤ addrLinear x y z 0 depth bpp pitch height

/-- R178 for the micro-tiled modes, all sizes: over a surface whose pitch and height are multiples of 8 and whose depth is a
multiple of the thickness, the spans of the elements lie inside the surface and are pairwise disjoint. -/
def Obligations.MicroTiledSpansTileTheSurface : Prop :=
  ∀ (t : TileMode) (bpp pitch height depth : Nat), t = .tiled1DThin1 ∨ t = .tiled1DThick →
    8 ≤ bpp → bpp % 8 = 0 → pitch % 8 = 0 → height % 8 = 0 → depth % tmThickness t = 0 →
    ∀ x y z, x < pitch → y < height → z < depth →
      addrMicro x y z bpp pitch height t + bpp / 8 ≤ pitch * height * depth * bpp / 8 ∧
      ∀ x' y' z', x' < pitch → y' < height → z' < depth → ¬ (x = x' ∧ y = y' ∧ z = z') →
        addrMicro x y z bpp pitch height t + bpp / 8 ≤ addrMicro x' y' z' bpp pitch height t ∨
        addrMicro x' y' z' bpp pitch height t + bpp / 8 ≤ addrMicro x y z bpp pitch height t

/-- R178 for the macro-tiled modes on the default profile, within one slice: over a surface whose pitch and height are
multiples of the macro-tile's, the spans of distinct elements of 8, 16, 32, 64 or 128 bits are disjoint, whatever the
swizzle. -/
def Obligations.MacroTiledSpansAreDisjoint : Prop :=
  ∀ (t : TileMode) (bpp pitch height slice ps bs : Nat), tmMacro t = true → bpp ∈ [8, 16, 32, 64, 128] →
    0 < pitch → pitch % (macroTileDims profile t).1 = 0 → height % (macroTileDims profile t).2 = 0 →
    ∀ x y x' y', x < pitch → y < height → x' < pitch → y' < height → ¬ (x = x' ∧ y = y') →
      addrMacro profile x y slice bpp pitch height t ps bs + bpp / 8 ≤ addrMacro profile x' y' slice bpp pitch height t ps bs ∨
      addrMacro profile x' y' slice bpp pitch height t ps bs + bpp / 8 ≤ addrMacro profile x y slice bpp pitch height t ps bs

/-! ### SWZ and DSWZ -/

/-- R198 with R193 to R197 and R201, the host staying away (spec/20_memory.md R49 (b), `quiet`): SWZ ends with the two counts and BTS;
it changes PHASE, the response, the loop state and the memory alone. A byte of memory that no copied element covers keeps its
value; a byte that some copied element covers holds what the last of them, in the order of R47, brought from the linear
buffer. Or the first check that fails is reported. -/
def Obligations.SwzCopiesLinearToTiled : Prop :=
  ∀ (m : MWord) (a : SwzArgs) (s : State) (t : TileMode),
    (operandsGood (.swz m a) → tmOf m.tileMode = some t → quiet s → memWf s.mem = true →
      ∃ u : State, exec (.swz m a) s = .next u ∧
        u = { s with
          phase := .send, rsp := swzRsp 0x40#8 (jobOf m t a), rspQ := rspWords (swzRsp 0x40#8 (jobOf m t a)),
          mem := u.mem, loop := u.loop, free := u.free } ∧
        (∀ b, (∀ k, ¬ elemCovers .toTiled (jobOf m t a) k b) → memGet u.mem b = memGet s.mem b) ∧
        (∀ k i, i < m.bpp.toNat / 8 → elemCovers .toTiled (jobOf m t a) k (elemDst .toTiled (jobOf m t a) k + i) →
          (∀ k', k < k' → ¬ elemCovers .toTiled (jobOf m t a) k' (elemDst .toTiled (jobOf m t a) k + i)) →
          memGet u.mem (elemDst .toTiled (jobOf m t a) k + i) =
            memGet s.mem (elemSrc .toTiled (jobOf m t a) k + i))) ∧
    reportsFirstFailure (.swz m a) s

/-- R199: as for SWZ, the other way: every copied element's bytes come from the tiled buffer and go to its own span of the
linear buffer. Or the first check that fails is reported. -/
def Obligations.DswzCopiesTiledToLinear : Prop :=
  ∀ (m : MWord) (a : SwzArgs) (s : State) (t : TileMode),
    (operandsGood (.dswz m a) → tmOf m.tileMode = some t → quiet s → memWf s.mem = true →
      ∃ u : State, exec (.dswz m a) s = .next u ∧
        u = { s with
          phase := .send, rsp := swzRsp 0x41#8 (jobOf m t a), rspQ := rspWords (swzRsp 0x41#8 (jobOf m t a)),
          mem := u.mem, loop := u.loop, free := u.free } ∧
        (∀ b, (∀ k, ¬ elemCovers .toLinear (jobOf m t a) k b) → memGet u.mem b = memGet s.mem b) ∧
        (∀ k i, k < (jobOf m t a).wI * (jobOf m t a).hI → elemIn (jobOf m t a) k = true → i < m.bpp.toNat / 8 →
          memGet u.mem (a.linBase.toNat + k * (m.bpp.toNat / 8) + i) =
            memGet s.mem (elemSrc .toLinear (jobOf m t a) k + i))) ∧
    reportsFirstFailure (.dswz m a) s

/-- R193, R194, R195, R68: where the elements of SWZ and DSWZ lie. Element `k` is `(k mod wI, k / wI)`; its linear offset is
`k` elements; its tiled offset is that of the address formula of the mode's family at slice 0, with the swizzle bits of
`swizzleValue`; it is copied exactly when both spans fit. -/
def Obligations.SwzElementsLieWhereTheFormulasSay : Prop :=
  ∀ (m : MWord) (a : SwzArgs) (t : TileMode) (k : Nat), tmOf m.tileMode = some t →
    let n := m.bpp.toNat / 8
    let wI := if m.isBC = 1#1 then (a.width.toNat + 3) / 4 else a.width.toNat
    let hI := if m.isBC = 1#1 then (a.height.toNat + 3) / 4 else a.height.toNat
    let tiled :=
      if m.tileMode = 0#5 ∨ m.tileMode = 1#5 ∨ m.tileMode = 16#5 then
        (k % wI + a.pitch.toNat * (k / wI)) * m.bpp.toNat / 8
      else if m.tileMode = 2#5 ∨ m.tileMode = 3#5 then
        addrMicro (k % wI) (k / wI) 0 m.bpp.toNat a.pitch.toNat a.surfHeight.toNat t
      else
        addrMacro profile (k % wI) (k / wI) 0 m.bpp.toNat a.pitch.toNat a.surfHeight.toNat t
          (a.swizzleValue.toNat / 256 % 2) (a.swizzleValue.toNat / 512 % 4)
    (jobOf m t a).wI = wI ∧ (jobOf m t a).hI = hI ∧
    elemSrc .toTiled (jobOf m t a) k = a.linBase.toNat + k * n ∧
    elemDst .toTiled (jobOf m t a) k = a.tiledBase.toNat + tiled ∧
    elemSrc .toLinear (jobOf m t a) k = a.tiledBase.toNat + tiled ∧
    elemDst .toLinear (jobOf m t a) k = a.linBase.toNat + k * n ∧
    (elemIn (jobOf m t a) k = true ↔ k * n + n ≤ a.linLen.toNat ∧ tiled + n ≤ a.tiledLen.toNat)

/-- R49, R198, R199: whatever the host does with the memory meanwhile, short of RESET, SWZ and DSWZ complete with the same
response; a byte that neither a copied element nor the host writes keeps its value. The host's turns, and that one of them
is used for each byte access, are the model's choice and no rule of the spec (log entry 9, DESIGN CHOICE). -/
def Obligations.SwzAndDswzCompleteBesideTheHost : Prop :=
  ∀ (m : MWord) (a : SwzArgs) (s : State) (t : TileMode) (i : Instr) (d : Dir),
    (i = .swz m a ∧ d = .toTiled) ∨ (i = .dswz m a ∧ d = .toLinear) →
    operandsGood i → tmOf m.tileMode = some t → s.resetIn = false → noReset s.hostTurns → memWf s.mem = true →
      ∃ u : State, exec i s = .next u ∧
        u = { s with
          phase := .send, rsp := swzRsp i.op.code (jobOf m t a), rspQ := rspWords (swzRsp i.op.code (jobOf m t a)),
          mem := u.mem, loop := u.loop, hostTurns := s.hostTurns.drop (loopAccesses d (jobOf m t a)).length,
          hostSaw := u.hostSaw, free := u.free } ∧
        ∀ b, (∀ k, ¬ elemCovers d (jobOf m t a) k b) → ¬ hostWrites s.hostTurns b → memGet u.mem b = memGet s.mem b

/-- R231, R47: when RESET cuts a SWZ or DSWZ off before its byte access number `n`, the accesses before it have been made,
in the order of R47, and no other: the writes among them stay in memory; there is no response. That RESET falls in the
host's turn just before a byte access is the model's choice (log entry 9, DESIGN CHOICE). -/
def Obligations.ResetCutsTheLoopAfterAPrefix : Prop :=
  ∀ (m : MWord) (a : SwzArgs) (s : State) (t : TileMode) (i : Instr) (d : Dir) (n : Nat) (rest : List (List HostAct)),
    (i = .swz m a ∧ d = .toTiled) ∨ (i = .dswz m a ∧ d = .toLinear) →
    operandsGood i → tmOf m.tileMode = some t → s.resetIn = false →
    s.hostTurns = List.replicate n [] ++ [HostAct.assertReset] :: rest →
    n < (loopAccesses d (jobOf m t a)).length → memWf s.mem = true →
      ∃ u : State, exec i s = .next u ∧ u.phase = .idle ∧ u.rspQ = [] ∧ u.resetIn = true ∧ u.rspTaken = s.rspTaken ∧
        u.cmdQ = s.cmdQ ∧ u.mem = applyAccesses s.mem ((loopAccesses d (jobOf m t a)).take n) s.mem

/-- R200: a SWZ and then a DSWZ with the same operands but another linear buffer of the same length bring every copied
element back; both copy the same elements. The geometry enters only through the tiled spans of the copied elements being
pairwise disjoint, which R178 says of a geometry from SURFINFO. -/
def Obligations.DeswizzleUndoesSwizzle : Prop :=
  ∀ (m : MWord) (a : SwzArgs) (base : Word) (s u v : State) (t : TileMode),
    let a' := { a with linBase := base }
    let j := jobOf m t a
    let n := m.bpp.toNat / 8
    operandsGood (.swz m a) → operandsGood (.dswz m a') → tmOf m.tileMode = some t → quiet s → memWf s.mem = true →
    (∀ k k' b, elemCovers .toTiled j k b → elemCovers .toTiled j k' b → k = k') →
    exec (.swz m a) s = .next u → exec (.dswz m a') u = .next v →
      v.rsp.words = u.rsp.words ∧ v.rsp.flags = u.rsp.flags ∧
      ∀ k i, k < j.wI * j.hI → i < n →
        (elemIn j k = true → memGet v.mem (base.toNat + k * n + i) = memGet s.mem (a.linBase.toNat + k * n + i)) ∧
        (elemIn j k = false → base.toNat + k * n + i < base.toNat + a.linLen.toNat →
          memGet v.mem (base.toNat + k * n + i) = memGet s.mem (base.toNat + k * n + i))

/-! ### Helpers and worked cases -/

/-- R10: `nextPow2` is the least power of two that is not below its argument; `alignUp` is the least multiple of the
alignment that is not below its argument. -/
def Obligations.RoundingHelpersAreLeast : Prop :=
  (∀ v : Nat, (∃ k, nextPow2 v = 2 ^ k) ∧ v ≤ nextPow2 v ∧ ∀ k, v ≤ 2 ^ k → nextPow2 v ≤ 2 ^ k) ∧
  (nextPow2 0 = 1 ∧ nextPow2 1 = 1) ∧
  (∀ v a : Nat, 1 ≤ a → alignUp v a = (v + a - 1) / a * a ∧ a ∣ alignUp v a ∧ v ≤ alignUp v a ∧
    ∀ w, a ∣ w → v ≤ w → alignUp v a ≤ w)

/-- Memories that read the same everywhere are the same data (the canonical form of spec/20_memory.md R41's byte array, a
choice of the model: log entry 2 for what an unlisted byte reads as). -/
def Obligations.CanonicalMemoryIsUnique : Prop :=
  ∀ m m' : Memory, memWf m = true → memWf m' = true → (∀ a, memGet m a = memGet m' a) → m = m'

/-- R75: the source's scenario 1 as a SURFINFO command: its six words, and the twelve words of its response. -/
def Obligations.WorkedScenarioOneAnswers : Prop :=
  let i := Instr.surfinfo ⟨1#5, 1#3, 0#4, 1#4, 0#1, 0#1, 0#2, 0#1, 0#3, 0#8⟩ 64#32 64#32 1#32 0x1A#32
  encode i = [0x23000000#32, 0x00001021#32, 0x40#32, 0x40#32, 0x1#32, 0x1A#32] ∧
  ∀ s : State, ∃ t, exec i s = .next t ∧
    t.rspQ = [0x23000000#32, 64#32, 64#32, 1#32, 32#32, 16384#32, 0#32, 1#32, 256#32, 64#32, 1#32, 1#32]

end Statements
end

