-- ==== Sys2Proof/Laws/Encoding.lean ====
section
/-! SUPPORT. The laws of the fields of a packet: headers and opcodes (spec/30_encoding.md R62, R69), and the M-word (R63). -/

namespace Sys2Proof

/-- The value of a concatenation. -/
theorem toNat_append_eq {m n : Nat} (x : BitVec m) (y : BitVec n) : (x ++ y).toNat = x.toNat * 2 ^ n + y.toNat := by
  rw [BitVec.toNat_append, ← Nat.shiftLeft_add_eq_or_of_lt y.isLt, Nat.shiftLeft_eq]

@[simp] theorem Op.ofCode_code (op : Op) : Op.ofCode op.code = some op := by cases op <;> rfl

theorem Op.ofCode_eq_some (c : BitVec 8) (op : Op) (h : Op.ofCode c = some op) : c = op.code := by
  have := List.find?_some h
  exact (beq_iff_eq.1 this).symm

@[simp] theorem Op.ofHeader_header (op : Op) : Op.ofHeader op.header = some op := by cases op <;> decide

theorem Op.ofHeader_eq_some (w : Word) (op : Op) (h : Op.ofHeader w = some op) : w = op.header := by
  have := List.find?_some h
  exact (beq_iff_eq.1 this).symm

@[simp] theorem Op.headerOpc_header (op : Op) : headerOpc op.header = op.code := by cases op <;> decide

/-- The value of an M-word: each field at its place (R63). -/
theorem MWord.toWord_toNat (m : MWord) : m.toWord.toNat =
    m.tileMode.toNat + 2 ^ 5 * m.dim.toNat + 2 ^ 8 * m.mipLevel.toNat + 2 ^ 12 * m.sampleCount.toNat
      + 2 ^ 16 * m.isDepthBuffer.toNat + 2 ^ 17 * m.pipeSwizzle.toNat + 2 ^ 18 * m.bankSwizzle.toNat
      + 2 ^ 20 * m.isBC.toNat + 2 ^ 21 * m.rsv.toNat + 2 ^ 24 * m.bpp.toNat := by
  have h : m.toWord.toNat = (m.bpp ++ m.rsv ++ m.isBC ++ m.bankSwizzle ++ m.pipeSwizzle ++ m.isDepthBuffer
    ++ m.sampleCount ++ m.mipLevel ++ m.dim ++ m.tileMode).toNat := rfl
  rw [h]
  simp only [toNat_append_eq]
  omega

/-- Reading an M-word's fields back. -/
theorem MWord.ofWord_toWord (m : MWord) : MWord.ofWord m.toWord = m := by
  have h := toWord_toNat m
  obtain ⟨a, b, c, d, e, f, g, i, j, k⟩ := m
  have := a.isLt; have := b.isLt; have := c.isLt; have := d.isLt; have := e.isLt; have := f.isLt
  have := g.isLt; have := i.isLt; have := j.isLt; have := k.isLt
  simp only at h
  simp only [MWord.ofWord, MWord.mk.injEq]
  refine ⟨?_, ?_, ?_, ?_, ?_, ?_, ?_, ?_, ?_, ?_⟩ <;> apply BitVec.eq_of_toNat_eq <;>
    rw [BitVec.extractLsb'_toNat, Nat.shiftRight_eq_div_pow, h] <;> omega

/-- No bit of an M-word is outside its fields. -/
theorem MWord.toWord_ofWord (w : Word) : (MWord.ofWord w).toWord = w := by
  apply BitVec.eq_of_toNat_eq
  have := w.isLt
  simp only [toWord_toNat, MWord.ofWord, BitVec.extractLsb'_toNat, Nat.shiftRight_eq_div_pow]
  omega

end Sys2Proof
end

