-- ==== Sys2Proof/Laws/State.lean ====
section
/-! SUPPORT. One lemma per field per update of the state, each true by rfl. -/

namespace Sys2Proof.Machine

open Sys2Proof

/-! ### sendRsp -/

@[simp] theorem sendRsp_phase (r : Rsp) (s : State) : (sendRsp r s).phase = .send := rfl
@[simp] theorem sendRsp_req (r : Rsp) (s : State) : (sendRsp r s).req = s.req := rfl
@[simp] theorem sendRsp_owed (r : Rsp) (s : State) : (sendRsp r s).owed = s.owed := rfl
@[simp] theorem sendRsp_rsp (r : Rsp) (s : State) : (sendRsp r s).rsp = r := rfl
@[simp] theorem sendRsp_loop (r : Rsp) (s : State) : (sendRsp r s).loop = s.loop := rfl
@[simp] theorem sendRsp_mem (r : Rsp) (s : State) : (sendRsp r s).mem = s.mem := rfl
@[simp] theorem sendRsp_cmdQ (r : Rsp) (s : State) : (sendRsp r s).cmdQ = s.cmdQ := rfl
@[simp] theorem sendRsp_rspQ (r : Rsp) (s : State) : (sendRsp r s).rspQ = rspWords r := rfl
@[simp] theorem sendRsp_resetIn (r : Rsp) (s : State) : (sendRsp r s).resetIn = s.resetIn := rfl
@[simp] theorem sendRsp_rspReady (r : Rsp) (s : State) : (sendRsp r s).rspReady = s.rspReady := rfl
@[simp] theorem sendRsp_rspTaken (r : Rsp) (s : State) : (sendRsp r s).rspTaken = s.rspTaken := rfl
@[simp] theorem sendRsp_hostTurns (r : Rsp) (s : State) : (sendRsp r s).hostTurns = s.hostTurns := rfl
@[simp] theorem sendRsp_hostSaw (r : Rsp) (s : State) : (sendRsp r s).hostSaw = s.hostSaw := rfl
@[simp] theorem sendRsp_free (r : Rsp) (s : State) : (sendRsp r s).free = s.free := rfl

/-! ### raise -/

@[simp] theorem raise_phase (o : BitVec 8) (c : Status) (s : State) : (raise o c s).phase = .send := rfl
@[simp] theorem raise_req (o : BitVec 8) (c : Status) (s : State) : (raise o c s).req = s.req := rfl
@[simp] theorem raise_owed (o : BitVec 8) (c : Status) (s : State) : (raise o c s).owed = s.owed := rfl
@[simp] theorem raise_rsp (o : BitVec 8) (c : Status) (s : State) : (raise o c s).rsp = { opc := o, flags := flagsNone, status := c.code, words := [] } := rfl
@[simp] theorem raise_loop (o : BitVec 8) (c : Status) (s : State) : (raise o c s).loop = s.loop := rfl
@[simp] theorem raise_mem (o : BitVec 8) (c : Status) (s : State) : (raise o c s).mem = s.mem := rfl
@[simp] theorem raise_cmdQ (o : BitVec 8) (c : Status) (s : State) : (raise o c s).cmdQ = s.cmdQ := rfl
@[simp] theorem raise_rspQ (o : BitVec 8) (c : Status) (s : State) : (raise o c s).rspQ = [o ++ 0#8 ++ flagsNone ++ c.code] := rfl
@[simp] theorem raise_resetIn (o : BitVec 8) (c : Status) (s : State) : (raise o c s).resetIn = s.resetIn := rfl
@[simp] theorem raise_rspReady (o : BitVec 8) (c : Status) (s : State) : (raise o c s).rspReady = s.rspReady := rfl
@[simp] theorem raise_rspTaken (o : BitVec 8) (c : Status) (s : State) : (raise o c s).rspTaken = s.rspTaken := rfl
@[simp] theorem raise_hostTurns (o : BitVec 8) (c : Status) (s : State) : (raise o c s).hostTurns = s.hostTurns := rfl
@[simp] theorem raise_hostSaw (o : BitVec 8) (c : Status) (s : State) : (raise o c s).hostSaw = s.hostSaw := rfl
@[simp] theorem raise_free (o : BitVec 8) (c : Status) (s : State) : (raise o c s).free = s.free := rfl

/-! ### complete -/

@[simp] theorem complete_phase (op : Op) (f : BitVec 8) (ws : List Word) (s : State) : (complete op f ws s).phase = .send := rfl
@[simp] theorem complete_req (op : Op) (f : BitVec 8) (ws : List Word) (s : State) : (complete op f ws s).req = s.req := rfl
@[simp] theorem complete_owed (op : Op) (f : BitVec 8) (ws : List Word) (s : State) : (complete op f ws s).owed = s.owed := rfl
@[simp] theorem complete_rsp (op : Op) (f : BitVec 8) (ws : List Word) (s : State) : (complete op f ws s).rsp = { opc := op.code, flags := f, status := statusOk, words := ws } := rfl
@[simp] theorem complete_loop (op : Op) (f : BitVec 8) (ws : List Word) (s : State) : (complete op f ws s).loop = s.loop := rfl
@[simp] theorem complete_mem (op : Op) (f : BitVec 8) (ws : List Word) (s : State) : (complete op f ws s).mem = s.mem := rfl
@[simp] theorem complete_cmdQ (op : Op) (f : BitVec 8) (ws : List Word) (s : State) : (complete op f ws s).cmdQ = s.cmdQ := rfl
@[simp] theorem complete_rspQ (op : Op) (f : BitVec 8) (ws : List Word) (s : State) : (complete op f ws s).rspQ = (op.code ++ 0#8 ++ f ++ statusOk) :: ws := rfl
@[simp] theorem complete_resetIn (op : Op) (f : BitVec 8) (ws : List Word) (s : State) : (complete op f ws s).resetIn = s.resetIn := rfl
@[simp] theorem complete_rspReady (op : Op) (f : BitVec 8) (ws : List Word) (s : State) : (complete op f ws s).rspReady = s.rspReady := rfl
@[simp] theorem complete_rspTaken (op : Op) (f : BitVec 8) (ws : List Word) (s : State) : (complete op f ws s).rspTaken = s.rspTaken := rfl
@[simp] theorem complete_hostTurns (op : Op) (f : BitVec 8) (ws : List Word) (s : State) : (complete op f ws s).hostTurns = s.hostTurns := rfl
@[simp] theorem complete_hostSaw (op : Op) (f : BitVec 8) (ws : List Word) (s : State) : (complete op f ws s).hostSaw = s.hostSaw := rfl
@[simp] theorem complete_free (op : Op) (f : BitVec 8) (ws : List Word) (s : State) : (complete op f ws s).free = s.free := rfl

/-! ### discardLoop -/

@[simp] theorem discardLoop_phase (s : State) : (discardLoop s).phase = s.phase := rfl
@[simp] theorem discardLoop_req (s : State) : (discardLoop s).req = s.req := rfl
@[simp] theorem discardLoop_owed (s : State) : (discardLoop s).owed = s.owed := rfl
@[simp] theorem discardLoop_rsp (s : State) : (discardLoop s).rsp = s.rsp := rfl
@[simp] theorem discardLoop_loop (s : State) : (discardLoop s).loop = freeLoop s.free := rfl
@[simp] theorem discardLoop_mem (s : State) : (discardLoop s).mem = s.mem := rfl
@[simp] theorem discardLoop_cmdQ (s : State) : (discardLoop s).cmdQ = s.cmdQ := rfl
@[simp] theorem discardLoop_rspQ (s : State) : (discardLoop s).rspQ = s.rspQ := rfl
@[simp] theorem discardLoop_resetIn (s : State) : (discardLoop s).resetIn = s.resetIn := rfl
@[simp] theorem discardLoop_rspReady (s : State) : (discardLoop s).rspReady = s.rspReady := rfl
@[simp] theorem discardLoop_rspTaken (s : State) : (discardLoop s).rspTaken = s.rspTaken := rfl
@[simp] theorem discardLoop_hostTurns (s : State) : (discardLoop s).hostTurns = s.hostTurns := rfl
@[simp] theorem discardLoop_hostSaw (s : State) : (discardLoop s).hostSaw = s.hostSaw := rfl
@[simp] theorem discardLoop_free (s : State) : (discardLoop s).free = s.free + 1 := rfl

/-! ### toIdle -/

@[simp] theorem toIdle_phase (s : State) : (toIdle s).phase = .idle := rfl
@[simp] theorem toIdle_req (s : State) : (toIdle s).req = freeReq s.free := rfl
@[simp] theorem toIdle_owed (s : State) : (toIdle s).owed = 0 := rfl
@[simp] theorem toIdle_rsp (s : State) : (toIdle s).rsp = freeRsp s.free := rfl
@[simp] theorem toIdle_loop (s : State) : (toIdle s).loop = freeLoop s.free := rfl
@[simp] theorem toIdle_mem (s : State) : (toIdle s).mem = s.mem := rfl
@[simp] theorem toIdle_cmdQ (s : State) : (toIdle s).cmdQ = s.cmdQ := rfl
@[simp] theorem toIdle_rspQ (s : State) : (toIdle s).rspQ = [] := rfl
@[simp] theorem toIdle_resetIn (s : State) : (toIdle s).resetIn = s.resetIn := rfl
@[simp] theorem toIdle_rspReady (s : State) : (toIdle s).rspReady = s.rspReady := rfl
@[simp] theorem toIdle_rspTaken (s : State) : (toIdle s).rspTaken = s.rspTaken := rfl
@[simp] theorem toIdle_hostTurns (s : State) : (toIdle s).hostTurns = s.hostTurns := rfl
@[simp] theorem toIdle_hostSaw (s : State) : (toIdle s).hostSaw = s.hostSaw := rfl
@[simp] theorem toIdle_free (s : State) : (toIdle s).free = s.free + 1 := rfl

/-! ### inReset -/

@[simp] theorem inReset_phase (s : State) : (inReset s).phase = .idle := rfl
@[simp] theorem inReset_req (s : State) : (inReset s).req = freeReq s.free := rfl
@[simp] theorem inReset_owed (s : State) : (inReset s).owed = 0 := rfl
@[simp] theorem inReset_rsp (s : State) : (inReset s).rsp = freeRsp s.free := rfl
@[simp] theorem inReset_loop (s : State) : (inReset s).loop = freeLoop s.free := rfl
@[simp] theorem inReset_mem (s : State) : (inReset s).mem = s.mem := rfl
@[simp] theorem inReset_cmdQ (s : State) : (inReset s).cmdQ = s.cmdQ := rfl
@[simp] theorem inReset_rspQ (s : State) : (inReset s).rspQ = [] := rfl
@[simp] theorem inReset_resetIn (s : State) : (inReset s).resetIn = s.resetIn := rfl
@[simp] theorem inReset_rspReady (s : State) : (inReset s).rspReady = s.rspReady := rfl
@[simp] theorem inReset_rspTaken (s : State) : (inReset s).rspTaken = s.rspTaken := rfl
@[simp] theorem inReset_hostTurns (s : State) : (inReset s).hostTurns = s.hostTurns := rfl
@[simp] theorem inReset_hostSaw (s : State) : (inReset s).hostSaw = s.hostSaw := rfl
@[simp] theorem inReset_free (s : State) : (inReset s).free = s.free + 1 := rfl

/-! ### startLoop -/

@[simp] theorem startLoop_phase (s : State) : (startLoop s).phase = s.phase := rfl
@[simp] theorem startLoop_req (s : State) : (startLoop s).req = s.req := rfl
@[simp] theorem startLoop_owed (s : State) : (startLoop s).owed = s.owed := rfl
@[simp] theorem startLoop_rsp (s : State) : (startLoop s).rsp = s.rsp := rfl
@[simp] theorem startLoop_loop (s : State) : (startLoop s).loop = { x := 0, y := 0, copied := 0#64, skipped := 0#64 } := rfl
@[simp] theorem startLoop_mem (s : State) : (startLoop s).mem = s.mem := rfl
@[simp] theorem startLoop_cmdQ (s : State) : (startLoop s).cmdQ = s.cmdQ := rfl
@[simp] theorem startLoop_rspQ (s : State) : (startLoop s).rspQ = s.rspQ := rfl
@[simp] theorem startLoop_resetIn (s : State) : (startLoop s).resetIn = s.resetIn := rfl
@[simp] theorem startLoop_rspReady (s : State) : (startLoop s).rspReady = s.rspReady := rfl
@[simp] theorem startLoop_rspTaken (s : State) : (startLoop s).rspTaken = s.rspTaken := rfl
@[simp] theorem startLoop_hostTurns (s : State) : (startLoop s).hostTurns = s.hostTurns := rfl
@[simp] theorem startLoop_hostSaw (s : State) : (startLoop s).hostSaw = s.hostSaw := rfl
@[simp] theorem startLoop_free (s : State) : (startLoop s).free = s.free := rfl

/-! ### countCopied -/

@[simp] theorem countCopied_phase (j : Job) (s : State) : (countCopied j s).phase = s.phase := rfl
@[simp] theorem countCopied_req (j : Job) (s : State) : (countCopied j s).req = s.req := rfl
@[simp] theorem countCopied_owed (j : Job) (s : State) : (countCopied j s).owed = s.owed := rfl
@[simp] theorem countCopied_rsp (j : Job) (s : State) : (countCopied j s).rsp = s.rsp := rfl
@[simp] theorem countCopied_loop (j : Job) (s : State) : (countCopied j s).loop = advance j { s.loop with copied := s.loop.copied + 1#64 } := rfl
@[simp] theorem countCopied_mem (j : Job) (s : State) : (countCopied j s).mem = s.mem := rfl
@[simp] theorem countCopied_cmdQ (j : Job) (s : State) : (countCopied j s).cmdQ = s.cmdQ := rfl
@[simp] theorem countCopied_rspQ (j : Job) (s : State) : (countCopied j s).rspQ = s.rspQ := rfl
@[simp] theorem countCopied_resetIn (j : Job) (s : State) : (countCopied j s).resetIn = s.resetIn := rfl
@[simp] theorem countCopied_rspReady (j : Job) (s : State) : (countCopied j s).rspReady = s.rspReady := rfl
@[simp] theorem countCopied_rspTaken (j : Job) (s : State) : (countCopied j s).rspTaken = s.rspTaken := rfl
@[simp] theorem countCopied_hostTurns (j : Job) (s : State) : (countCopied j s).hostTurns = s.hostTurns := rfl
@[simp] theorem countCopied_hostSaw (j : Job) (s : State) : (countCopied j s).hostSaw = s.hostSaw := rfl
@[simp] theorem countCopied_free (j : Job) (s : State) : (countCopied j s).free = s.free := rfl

/-! ### countSkipped -/

@[simp] theorem countSkipped_phase (j : Job) (s : State) : (countSkipped j s).phase = s.phase := rfl
@[simp] theorem countSkipped_req (j : Job) (s : State) : (countSkipped j s).req = s.req := rfl
@[simp] theorem countSkipped_owed (j : Job) (s : State) : (countSkipped j s).owed = s.owed := rfl
@[simp] theorem countSkipped_rsp (j : Job) (s : State) : (countSkipped j s).rsp = s.rsp := rfl
@[simp] theorem countSkipped_loop (j : Job) (s : State) : (countSkipped j s).loop = advance j { s.loop with skipped := s.loop.skipped + 1#64 } := rfl
@[simp] theorem countSkipped_mem (j : Job) (s : State) : (countSkipped j s).mem = s.mem := rfl
@[simp] theorem countSkipped_cmdQ (j : Job) (s : State) : (countSkipped j s).cmdQ = s.cmdQ := rfl
@[simp] theorem countSkipped_rspQ (j : Job) (s : State) : (countSkipped j s).rspQ = s.rspQ := rfl
@[simp] theorem countSkipped_resetIn (j : Job) (s : State) : (countSkipped j s).resetIn = s.resetIn := rfl
@[simp] theorem countSkipped_rspReady (j : Job) (s : State) : (countSkipped j s).rspReady = s.rspReady := rfl
@[simp] theorem countSkipped_rspTaken (j : Job) (s : State) : (countSkipped j s).rspTaken = s.rspTaken := rfl
@[simp] theorem countSkipped_hostTurns (j : Job) (s : State) : (countSkipped j s).hostTurns = s.hostTurns := rfl
@[simp] theorem countSkipped_hostSaw (j : Job) (s : State) : (countSkipped j s).hostSaw = s.hostSaw := rfl
@[simp] theorem countSkipped_free (j : Job) (s : State) : (countSkipped j s).free = s.free := rfl

/-! ### responded -/

@[simp] theorem responded_phase (o f c : BitVec 8) (ws : List Word) (s : State) : (responded o f c ws s).phase = .send := rfl
@[simp] theorem responded_req (o f c : BitVec 8) (ws : List Word) (s : State) : (responded o f c ws s).req = s.req := rfl
@[simp] theorem responded_owed (o f c : BitVec 8) (ws : List Word) (s : State) : (responded o f c ws s).owed = s.owed := rfl
@[simp] theorem responded_rsp (o f c : BitVec 8) (ws : List Word) (s : State) : (responded o f c ws s).rsp = { opc := o, flags := f, status := c, words := ws } := rfl
@[simp] theorem responded_loop (o f c : BitVec 8) (ws : List Word) (s : State) : (responded o f c ws s).loop = s.loop := rfl
@[simp] theorem responded_mem (o f c : BitVec 8) (ws : List Word) (s : State) : (responded o f c ws s).mem = s.mem := rfl
@[simp] theorem responded_cmdQ (o f c : BitVec 8) (ws : List Word) (s : State) : (responded o f c ws s).cmdQ = s.cmdQ := rfl
@[simp] theorem responded_rspQ (o f c : BitVec 8) (ws : List Word) (s : State) : (responded o f c ws s).rspQ = (o ++ 0x00#8 ++ f ++ c) :: ws := rfl
@[simp] theorem responded_resetIn (o f c : BitVec 8) (ws : List Word) (s : State) : (responded o f c ws s).resetIn = s.resetIn := rfl
@[simp] theorem responded_rspReady (o f c : BitVec 8) (ws : List Word) (s : State) : (responded o f c ws s).rspReady = s.rspReady := rfl
@[simp] theorem responded_rspTaken (o f c : BitVec 8) (ws : List Word) (s : State) : (responded o f c ws s).rspTaken = s.rspTaken := rfl
@[simp] theorem responded_hostTurns (o f c : BitVec 8) (ws : List Word) (s : State) : (responded o f c ws s).hostTurns = s.hostTurns := rfl
@[simp] theorem responded_hostSaw (o f c : BitVec 8) (ws : List Word) (s : State) : (responded o f c ws s).hostSaw = s.hostSaw := rfl
@[simp] theorem responded_free (o f c : BitVec 8) (ws : List Word) (s : State) : (responded o f c ws s).free = s.free := rfl

/-! ### hostSend -/

@[simp] theorem hostSend_phase (ws : List Word) (s : State) : (hostSend ws s).phase = s.phase := rfl
@[simp] theorem hostSend_req (ws : List Word) (s : State) : (hostSend ws s).req = s.req := rfl
@[simp] theorem hostSend_owed (ws : List Word) (s : State) : (hostSend ws s).owed = s.owed := rfl
@[simp] theorem hostSend_rsp (ws : List Word) (s : State) : (hostSend ws s).rsp = s.rsp := rfl
@[simp] theorem hostSend_loop (ws : List Word) (s : State) : (hostSend ws s).loop = s.loop := rfl
@[simp] theorem hostSend_mem (ws : List Word) (s : State) : (hostSend ws s).mem = s.mem := rfl
@[simp] theorem hostSend_cmdQ (ws : List Word) (s : State) : (hostSend ws s).cmdQ = s.cmdQ ++ ws := rfl
@[simp] theorem hostSend_rspQ (ws : List Word) (s : State) : (hostSend ws s).rspQ = s.rspQ := rfl
@[simp] theorem hostSend_resetIn (ws : List Word) (s : State) : (hostSend ws s).resetIn = s.resetIn := rfl
@[simp] theorem hostSend_rspReady (ws : List Word) (s : State) : (hostSend ws s).rspReady = s.rspReady := rfl
@[simp] theorem hostSend_rspTaken (ws : List Word) (s : State) : (hostSend ws s).rspTaken = s.rspTaken := rfl
@[simp] theorem hostSend_hostTurns (ws : List Word) (s : State) : (hostSend ws s).hostTurns = s.hostTurns := rfl
@[simp] theorem hostSend_hostSaw (ws : List Word) (s : State) : (hostSend ws s).hostSaw = s.hostSaw := rfl
@[simp] theorem hostSend_free (ws : List Word) (s : State) : (hostSend ws s).free = s.free := rfl

/-! ### hostTurn and hostAct -/

@[simp] theorem hostAct_phase (h : HostAct) (s : State) : (hostAct h s).phase = s.phase := by cases h <;> rfl
@[simp] theorem hostAct_req (h : HostAct) (s : State) : (hostAct h s).req = s.req := by cases h <;> rfl
@[simp] theorem hostAct_owed (h : HostAct) (s : State) : (hostAct h s).owed = s.owed := by cases h <;> rfl
@[simp] theorem hostAct_rsp (h : HostAct) (s : State) : (hostAct h s).rsp = s.rsp := by cases h <;> rfl
@[simp] theorem hostAct_loop (h : HostAct) (s : State) : (hostAct h s).loop = s.loop := by cases h <;> rfl
@[simp] theorem hostAct_cmdQ (h : HostAct) (s : State) : (hostAct h s).cmdQ = s.cmdQ := by cases h <;> rfl
@[simp] theorem hostAct_rspQ (h : HostAct) (s : State) : (hostAct h s).rspQ = s.rspQ := by cases h <;> rfl
@[simp] theorem hostAct_rspReady (h : HostAct) (s : State) : (hostAct h s).rspReady = s.rspReady := by cases h <;> rfl
@[simp] theorem hostAct_rspTaken (h : HostAct) (s : State) : (hostAct h s).rspTaken = s.rspTaken := by cases h <;> rfl
@[simp] theorem hostAct_hostTurns (h : HostAct) (s : State) : (hostAct h s).hostTurns = s.hostTurns := by cases h <;> rfl
@[simp] theorem hostAct_free (h : HostAct) (s : State) : (hostAct h s).free = s.free := by cases h <;> rfl

/-! ### answer -/

@[simp] theorem answer_req (op : Op) (r : Except Status (List Word)) (s : State) : (answer op r s).req = s.req := by cases r <;> rfl
@[simp] theorem answer_owed (op : Op) (r : Except Status (List Word)) (s : State) : (answer op r s).owed = s.owed := by cases r <;> rfl
@[simp] theorem answer_loop (op : Op) (r : Except Status (List Word)) (s : State) : (answer op r s).loop = s.loop := by cases r <;> rfl
@[simp] theorem answer_mem (op : Op) (r : Except Status (List Word)) (s : State) : (answer op r s).mem = s.mem := by cases r <;> rfl
@[simp] theorem answer_cmdQ (op : Op) (r : Except Status (List Word)) (s : State) : (answer op r s).cmdQ = s.cmdQ := by cases r <;> rfl
@[simp] theorem answer_resetIn (op : Op) (r : Except Status (List Word)) (s : State) : (answer op r s).resetIn = s.resetIn := by cases r <;> rfl
@[simp] theorem answer_rspReady (op : Op) (r : Except Status (List Word)) (s : State) : (answer op r s).rspReady = s.rspReady := by cases r <;> rfl
@[simp] theorem answer_rspTaken (op : Op) (r : Except Status (List Word)) (s : State) : (answer op r s).rspTaken = s.rspTaken := by cases r <;> rfl
@[simp] theorem answer_hostTurns (op : Op) (r : Except Status (List Word)) (s : State) : (answer op r s).hostTurns = s.hostTurns := by cases r <;> rfl
@[simp] theorem answer_hostSaw (op : Op) (r : Except Status (List Word)) (s : State) : (answer op r s).hostSaw = s.hostSaw := by cases r <;> rfl
@[simp] theorem answer_free (op : Op) (r : Except Status (List Word)) (s : State) : (answer op r s).free = s.free := by cases r <;> rfl
@[simp] theorem answer_phase (op : Op) (r : Except Status (List Word)) (s : State) : (answer op r s).phase = .send := by cases r <;> rfl

/-- `answer` in the terms of the statements: an exception is the header alone. -/
@[simp] theorem answer_error (op : Op) (c : Status) (s : State) : answer op (.error c) s = errResponse op.code c.code s := rfl

/-- `answer` in the terms of the statements: a completed command. -/
@[simp] theorem answer_ok (op : Op) (ws : List Word) (s : State) : answer op (.ok ws) s = okResponse op.code ws s := rfl

/-- `raise` in the terms of the statements. -/
theorem raise_eq_errResponse (o : BitVec 8) (c : Status) (s : State) : raise o c s = errResponse o c.code s := rfl

/-- `complete` in the terms of the statements. -/
theorem complete_eq_responded (op : Op) (f : BitVec 8) (ws : List Word) (s : State) :
    complete op f ws s = responded op.code f 0x00#8 ws s := rfl

end Sys2Proof.Machine
end

