-- ==== Sys2Proof/Laws/Memory.lean ====
section
/-! SUPPORT. The laws of the data memory (spec/20_memory.md R42, R43): a read after a write, and that every operation keeps
the canonical form. -/

namespace Sys2Proof.Machine

open Sys2Proof

@[simp] theorem memGet_nil (a : Nat) : memGet [] a = memBackground := rfl

theorem memGet_cons (c : Host.Cell) (m : Memory) (a : Nat) :
    memGet (c :: m) a = if c.1 = a then c.2 else memGet m a := rfl

/-- Below every listed address the memory reads as the background. -/
theorem memGet_of_lt (m : Memory) (a : Nat) (h : ∀ d ∈ m, a < d.1) : memGet m a = memBackground := by
  induction m with
  | nil => rfl
  | cons c m ih =>
    have hc := h c (by simp)
    rw [memGet_cons, if_neg (by omega)]
    exact ih fun d hd => h d (by simp [hd])

theorem memWf_cons (c : Host.Cell) (m : Memory) :
    memWf (c :: m) = true ↔
      c.1 < memSize ∧ c.2 ≠ memBackground ∧ (∀ d ∈ m, c.1 < d.1) ∧ memWf m = true := by
  simp only [memWf, Bool.and_eq_true, decide_eq_true_eq, bne_iff_ne, ne_eq, List.all_eq_true, and_assoc]

/-- What `memSet` can put into the list: the new cell, or a cell that was there. -/
theorem mem_memSet (m : Memory) (a : Nat) (b : Byte) (d : Host.Cell) (hd : d ∈ memSet m a b) :
    d = (a, b) ∨ d ∈ m := by
  induction m with
  | nil => by_cases hb : b = memBackground <;> simp_all [memSet]
  | cons c m ih =>
    simp only [memSet] at hd
    split at hd
    · split at hd
      · exact .inr hd
      · simpa using hd
    · split at hd
      · split at hd
        · exact .inr (by simp [hd])
        · simp only [List.mem_cons] at hd ⊢
          exact hd.elim .inl fun h => .inr (.inr h)
      · simp only [List.mem_cons] at hd ⊢
        rcases hd with h | h
        · exact .inr (.inl h)
        · exact (ih h).elim .inl fun h => .inr (.inr h)

/-- A write keeps the canonical form. -/
theorem memWf_memSet (m : Memory) (a : Nat) (b : Byte) (ha : a < memSize) (h : memWf m = true) :
    memWf (memSet m a b) = true := by
  induction m with
  | nil => by_cases hb : b = memBackground <;> simp [memSet, memWf, hb, ha]
  | cons c m ih =>
    obtain ⟨h1, h2, h3, h4⟩ := (memWf_cons c m).1 h
    simp only [memSet]
    split
    · next hac =>
      split
      · exact h
      · next hb =>
        refine (memWf_cons _ _).2 ⟨ha, hb, fun d hd => ?_, h⟩
        rcases List.mem_cons.1 hd with rfl | hd
        · exact hac
        · exact Nat.lt_trans hac (h3 d hd)
    · split
      · next heq =>
        split
        · exact h4
        · next hb => exact (memWf_cons _ _).2 ⟨ha, hb, fun d hd => by have := h3 d hd; simp only; omega, h4⟩
      · next hlt hne =>
        refine (memWf_cons _ _).2 ⟨h1, h2, fun d hd => ?_, ih h4⟩
        rcases mem_memSet m a b d hd with rfl | hd
        · simp only; omega
        · exact h3 d hd

/-- A read after a write: the byte written at that address, the old byte at every other. -/
theorem memGet_memSet (m : Memory) (a a' : Nat) (b : Byte) (h : memWf m = true) :
    memGet (memSet m a b) a' = if a' = a then b else memGet m a' := by
  induction m with
  | nil =>
    rw [memGet_nil]
    simp only [memSet]
    split
    · next hb => split <;> simp [hb]
    · rw [memGet_cons]
      by_cases ha : a' = a
      · rw [if_pos ha.symm, if_pos ha]
      · rw [if_neg (fun h => ha h.symm), if_neg ha]; rfl
  | cons c m ih =>
    obtain ⟨-, -, h3, h4⟩ := (memWf_cons c m).1 h
    simp only [memSet]
    split
    · next hac =>
      have hbg : memGet (c :: m) a = memBackground :=
        memGet_of_lt _ _ fun d hd => by
          rcases List.mem_cons.1 hd with rfl | hd
          · exact hac
          · exact Nat.lt_trans hac (h3 d hd)
      split
      · next hb => by_cases ha : a' = a <;> simp_all
      · rw [memGet_cons]
        by_cases ha : a' = a
        · simp [ha]
        · rw [if_neg (fun h => ha h.symm), if_neg ha]
    · split
      · next heq =>
        subst heq
        have hbg : memGet m c.1 = memBackground := memGet_of_lt _ _ h3
        split
        · next hb =>
          by_cases ha : a' = c.1
          · simp [ha, hb, hbg]
          · rw [if_neg ha, memGet_cons, if_neg (fun h => ha h.symm)]
        · rw [memGet_cons, memGet_cons]
          by_cases ha : a' = c.1
          · simp [ha]
          · rw [if_neg (fun h => ha h.symm), if_neg ha, if_neg (fun h => ha h.symm)]
      · next hlt hne =>
        rw [memGet_cons, memGet_cons, ih h4]
        by_cases ha : a' = a
        · subst ha
          rw [if_neg (fun h => hne h.symm), if_pos rfl, if_pos rfl]
        · rw [if_neg ha, if_neg ha]

/-- A write over a span keeps the canonical form. -/
theorem memWf_memSetSpan (m : Memory) (a : Nat) (bs : List Byte) (ha : a + bs.length ≤ memSize)
    (h : memWf m = true) : memWf (memSetSpan m a bs) = true := by
  induction bs generalizing m a with
  | nil => exact h
  | cons b bs ih =>
    simp only [List.length_cons] at ha
    exact ih _ _ (by omega) (memWf_memSet m a b (by omega) h)

/-- A read after a write over a span (R43): the byte written inside it, the old byte outside. -/
theorem memGet_memSetSpan (m : Memory) (a a' : Nat) (bs : List Byte) (ha : a + bs.length ≤ memSize)
    (h : memWf m = true) :
    memGet (memSetSpan m a bs) a' =
      if a ≤ a' ∧ a' < a + bs.length then bs.getD (a' - a) 0#8 else memGet m a' := by
  induction bs generalizing m a with
  | nil => rw [if_neg (by simp)]; rfl
  | cons b bs ih =>
    simp only [List.length_cons] at ha ⊢
    rw [memSetSpan, ih _ _ (by omega) (memWf_memSet m a b (by omega) h), memGet_memSet m a a' b h]
    by_cases h1 : a' = a
    · subst h1
      rw [if_neg (by omega), if_pos rfl, if_pos (by omega)]
      simp
    · by_cases h2 : a ≤ a' ∧ a' < a + (bs.length + 1)
      · rw [if_pos (by omega), if_pos h2, show a' - a = (a' - (a + 1)) + 1 from by omega, List.getD_cons_succ]
      · rw [if_neg (by omega), if_neg h1, if_neg h2]

@[simp] theorem memGetSpan_length (m : Memory) (a n : Nat) : (memGetSpan m a n).length = n := by
  induction n generalizing a with
  | zero => rfl
  | succ n ih => simp [memGetSpan, ih]

/-- Byte `i` of a span read (R42). -/
theorem memGetSpan_getD (m : Memory) (a n i : Nat) (hi : i < n) :
    (memGetSpan m a n).getD i 0#8 = memGet m (a + i) := by
  induction n generalizing a i with
  | zero => omega
  | succ n ih =>
    cases i with
    | zero => simp [memGetSpan]
    | succ i => rw [memGetSpan, List.getD_cons_succ, ih _ _ (by omega)]; congr 1; omega

/-- One thing the host does keeps the canonical form. -/
theorem memWf_hostAct (h : HostAct) (s : State) (hs : memWf s.mem = true) : memWf (hostAct h s).mem = true := by
  cases h with
  | write a b => exact memWf_memSet _ _ _ (by simpa [memSize, Config.addrBits] using a.isLt) hs
  | read a => exact hs
  | assertReset => exact hs

/-- A turn of the host keeps the canonical form. -/
theorem memWf_hostTurn (s : State) (hs : memWf s.mem = true) : memWf (hostTurn s).mem = true := by
  unfold hostTurn
  split
  · exact hs
  · next t ts _ =>
    have key : ∀ (t : List HostAct) (s : State), memWf s.mem = true →
        memWf (t.foldl (fun s h => hostAct h s) s).mem = true := by
      intro t
      induction t with
      | nil => exact fun _ h => h
      | cons h t ih => exact fun s hs => ih _ (memWf_hostAct h s hs)
    exact key t _ hs

/-- `MemRead` keeps the canonical form, whether it ends or is cut off. -/
theorem memWf_memRead (a n : Nat) (s : State) (hs : memWf s.mem = true) :
    (∀ r, memRead a n s = .ok r → memWf r.2.mem = true) ∧ (∀ t, memRead a n s = .error t → memWf t.mem = true) := by
  induction n generalizing a s with
  | zero => exact ⟨fun r h => (by cases h; exact hs), fun t h => (by cases h)⟩
  | succ n ih =>
    have ht := memWf_hostTurn s hs
    have ih := ih (a + 1) (hostTurn s) ht
    simp only [memRead]
    split
    · exact ⟨fun r h => (by cases h), fun t h => (by cases h; exact ht)⟩
    · split
      · next s₂ h₂ => exact ⟨fun r h => (by cases h), fun t h => (by cases h; exact ih.2 _ h₂)⟩
      · next bs s₂ h₂ => exact ⟨fun r h => (by cases h; exact ih.1 (bs, s₂) h₂), fun t h => (by cases h)⟩

/-- `MemWrite` below `2^32` keeps the canonical form, whether it ends or is cut off. -/
theorem memWf_memWrite (a : Nat) (bs : List Byte) (s : State) (ha : a + bs.length ≤ memSize)
    (hs : memWf s.mem = true) :
    (∀ t, memWrite a bs s = .ok t → memWf t.mem = true) ∧ (∀ t, memWrite a bs s = .error t → memWf t.mem = true) := by
  induction bs generalizing a s with
  | nil => exact ⟨fun t h => (by cases h; exact hs), fun t h => (by cases h)⟩
  | cons b bs ih =>
    simp only [List.length_cons] at ha
    have ht := memWf_hostTurn s hs
    simp only [memWrite]
    split
    · exact ⟨fun t h => (by cases h), fun t h => (by cases h; exact ht)⟩
    · exact ih (a + 1) _ (by omega) (memWf_memSet _ a b (by omega) ht)

/-- The memory of the reset state has the canonical form. -/
theorem memWf_reset : memWf State.reset.mem = true := rfl

end Sys2Proof.Machine
end

