-- ==== Sys2Proof/Laws/Ops.lean ====
section
/-! SUPPORT. For each shared operation, once, everything it can do. -/

namespace Sys2Proof.Machine

open Sys2Proof

/-! ### The host's turns and the two memory primitives -/

/-- `t` is `s` but for the memory, the RESET input and the host's turns and readings. -/
def BusOnly (s t : State) : Prop :=
  t = { s with mem := t.mem, resetIn := t.resetIn, hostTurns := t.hostTurns, hostSaw := t.hostSaw }

theorem BusOnly.refl (s : State) : BusOnly s s := rfl

theorem BusOnly.trans {s t u : State} (h₁ : BusOnly s t) (h₂ : BusOnly t u) : BusOnly s u := by
  unfold BusOnly at *
  rw [h₂, h₁]

theorem busOnly_hostAct (h : HostAct) (s : State) : BusOnly s (hostAct h s) := by cases h <;> rfl

theorem busOnly_hostTurn (s : State) : BusOnly s (hostTurn s) := by
  unfold hostTurn
  split
  · exact .refl s
  · next t ts _ =>
    have key : ∀ (t : List HostAct) (u : State), BusOnly s u → BusOnly s (t.foldl (fun s h => hostAct h s) u) := by
      intro t
      induction t with
      | nil => exact fun _ h => h
      | cons h t ih => exact fun u hu => ih _ (hu.trans (busOnly_hostAct h u))
    exact key t _ rfl

@[simp] theorem hostTurn_nil (s : State) (h : s.hostTurns = []) : hostTurn s = s := by simp [hostTurn, h]

/-- `MemRead` changes nothing but what the host's turns change. -/
theorem busOnly_memRead (a n : Nat) (s : State) :
    (∀ r, memRead a n s = .ok r → BusOnly s r.2) ∧ (∀ t, memRead a n s = .error t → BusOnly s t ∧ t.resetIn = true) := by
  induction n generalizing a s with
  | zero => exact ⟨fun r h => (by cases h; exact .refl s), fun t h => (by cases h)⟩
  | succ n ih =>
    have ht := busOnly_hostTurn s
    have ih := ih (a + 1) (hostTurn s)
    simp only [memRead]
    split
    · next hr => exact ⟨fun r h => (by cases h), fun t h => (by cases h; exact ⟨ht, hr⟩)⟩
    · split
      · next s₂ h₂ =>
        exact ⟨fun r h => (by cases h), fun t h => (by cases h; exact ⟨ht.trans (ih.2 _ h₂).1, (ih.2 _ h₂).2⟩)⟩
      · next bs s₂ h₂ =>
        exact ⟨fun r h => (by cases h; exact ht.trans (ih.1 (bs, s₂) h₂)), fun t h => (by cases h)⟩

/-- `MemRead` of `n` bytes returns `n` bytes. -/
theorem memRead_length (a n : Nat) (s : State) (r : List Byte × State) (h : memRead a n s = .ok r) :
    r.1.length = n := by
  induction n generalizing a s r with
  | zero => cases h; rfl
  | succ n ih =>
    simp only [memRead] at h
    split at h
    · cases h
    · split at h
      · cases h
      · next bs s₂ h₂ => cases h; simp [ih _ _ _ h₂]

/-- `MemWrite` changes nothing but the memory and what the host's turns change. -/
theorem busOnly_memWrite (a : Nat) (bs : List Byte) (s : State) :
    (∀ t, memWrite a bs s = .ok t → BusOnly s t) ∧ (∀ t, memWrite a bs s = .error t → BusOnly s t ∧ t.resetIn = true) := by
  induction bs generalizing a s with
  | nil => exact ⟨fun r h => (by cases h; exact .refl s), fun t h => (by cases h)⟩
  | cons b bs ih =>
    have ht := busOnly_hostTurn s
    simp only [memWrite]
    split
    · next hr => exact ⟨fun r h => (by cases h), fun t h => (by cases h; exact ⟨ht, hr⟩)⟩
    · have hw : BusOnly s { hostTurn s with mem := memSet (hostTurn s).mem a b } := ht.trans rfl
      have ih := ih (a + 1) { hostTurn s with mem := memSet (hostTurn s).mem a b }
      exact ⟨fun t h => hw.trans (ih.1 t h), fun t h => ⟨hw.trans (ih.2 t h).1, (ih.2 t h).2⟩⟩

/-- With a quiet host `MemRead` reads the bytes of the span and changes nothing (R42). -/
theorem memRead_quiet (a n : Nat) (s : State) (h : quiet s) : memRead a n s = .ok (memGetSpan s.mem a n, s) := by
  induction n generalizing a with
  | zero => rfl
  | succ n ih => simp [memRead, hostTurn_nil s h.1, h.2, ih, memGetSpan]

/-- With a quiet host `MemWrite` stores the bytes of the span and changes nothing else (R43). -/
theorem memWrite_quiet (a : Nat) (bs : List Byte) (s : State) (h : quiet s) :
    memWrite a bs s = .ok { s with mem := memSetSpan s.mem a bs } := by
  induction bs generalizing a s with
  | nil => rfl
  | cons b bs ih =>
    show (if (hostTurn s).resetIn then _ else _) = _
    rw [hostTurn_nil s h.1, if_neg (by simp [h.2])]
    exact ih (a + 1) { s with mem := memSet s.mem a b } ⟨h.1, h.2⟩

/-! ### The element loop of SWZ and DSWZ -/

/-- What one element does when the host is quiet. -/
def quietElement (hw : Config.Profile) (d : Dir) (j : Job) (s : State) : State :=
  if inBounds hw j s.loop.x s.loop.y then
    countCopied j { s with
      mem := memSetSpan s.mem (dstAddr hw d j s.loop.x s.loop.y)
        (memGetSpan s.mem (srcAddr hw d j s.loop.x s.loop.y) j.n) }
  else countSkipped j s

theorem oneElement_quiet (hw : Config.Profile) (d : Dir) (j : Job) (s : State) (h : quiet s) :
    oneElement hw d j s = .ok (quietElement hw d j s) := by
  unfold oneElement quietElement
  split
  · simp only [memRead_quiet _ _ _ h, memWrite_quiet _ _ _ h]
  · rfl

theorem quiet_quietElement (hw : Config.Profile) (d : Dir) (j : Job) (s : State) (h : quiet s) :
    quiet (quietElement hw d j s) := by
  unfold quietElement
  split <;> exact ⟨h.1, h.2⟩

/-- With a quiet host the loop runs to its end, one element after the other (R47, R198). -/
theorem elements_quiet (hw : Config.Profile) (d : Dir) (j : Job) (k : Nat) (s : State) (h : quiet s) :
    elements hw d j k s = .ok ((quietElement hw d j)^[k] s) := by
  induction k generalizing s with
  | zero => rfl
  | succ k ih =>
    simp only [elements, oneElement_quiet hw d j s h, Function.iterate_succ, Function.comp_apply]
    exact ih _ (quiet_quietElement hw d j s h)

/-- What one element can do, the host being what it may: it is skipped; or read and written; or cut off by RESET. -/
theorem oneElement_cases (hw : Config.Profile) (d : Dir) (j : Job) (s : State) :
    (inBounds hw j s.loop.x s.loop.y = false ∧ oneElement hw d j s = .ok (countSkipped j s)) ∨
    (inBounds hw j s.loop.x s.loop.y = true ∧
      ((∃ t, memRead (srcAddr hw d j s.loop.x s.loop.y) j.n s = .error t ∧ oneElement hw d j s = .error t) ∨
        ∃ v s₁, memRead (srcAddr hw d j s.loop.x s.loop.y) j.n s = .ok (v, s₁) ∧
          ((∃ t, memWrite (dstAddr hw d j s.loop.x s.loop.y) v s₁ = .error t ∧ oneElement hw d j s = .error t) ∨
            ∃ s₂, memWrite (dstAddr hw d j s.loop.x s.loop.y) v s₁ = .ok s₂ ∧
              oneElement hw d j s = .ok (countCopied j s₂)))) := by
  unfold oneElement
  by_cases hb : inBounds hw j s.loop.x s.loop.y = true
  · right
    refine ⟨hb, ?_⟩
    rw [if_pos hb]
    split
    · next t ht => exact .inl ⟨t, ht, rfl⟩
    · next v s₁ h₁ =>
      refine .inr ⟨v, s₁, h₁, ?_⟩
      split
      · next t ht => exact .inl ⟨t, ht, rfl⟩
      · next s₂ h₂ => exact .inr ⟨s₂, h₂, rfl⟩
  · left
    rw [if_neg hb]
    exact ⟨by simpa using hb, rfl⟩

/-- The induction over the loop, packaged: what every element keeps, the loop keeps; what an element cut off by RESET
leaves holds of the loop cut off. -/
theorem elements_induct (hw : Config.Profile) (d : Dir) (j : Job) (P Q : State → Prop)
    (hok : ∀ s t, P s → oneElement hw d j s = .ok t → P t)
    (herr : ∀ s t, P s → oneElement hw d j s = .error t → Q t) (k : Nat) (s : State) (hs : P s) :
    (∀ t, elements hw d j k s = .ok t → P t) ∧ (∀ t, elements hw d j k s = .error t → Q t) := by
  induction k generalizing s with
  | zero => exact ⟨fun t h => (by cases h; exact hs), fun t h => (by cases h)⟩
  | succ k ih =>
    simp only [elements]
    split
    · next t ht => exact ⟨fun _ h => (by cases h), fun _ h => (by cases h; exact herr s t hs ht)⟩
    · next t ht => exact ih t (hok s t hs ht)

/-! ### The checks -/

/-- What holds when PIPEBANK's and ADDRMAC's checks pass. -/
theorem macroChecks_ok (m : MWord) (a : AddrArgs) (t : TileMode) (h : macroChecks m a = .ok t) :
    m.rsv = 0#3 ∧ tmOf m.tileMode = some t ∧ m.sampleCount = 1#4 ∧ a.pitch ≠ 0#32 ∧ tmMacro t = true ∧
      m.bpp ≠ 0#8 ∧ a.sample = 0#32 := by
  unfold macroChecks at h
  split at h
  · cases h
  · next hr =>
    split at h
    · cases h
    · next t' ht =>
      split at h
      · cases h
      · next hs =>
        split at h
        · cases h
        · next hp =>
          split at h
          · cases h
          · next hm =>
            cases h
            simp only [not_or, not_not, ne_eq, Bool.not_eq_false] at hr hs hm
            exact ⟨hr, ht, hs, hp, hm.1, hm.2.1, hm.2.2⟩

/-- What holds when the checks of SWZ and DSWZ pass. -/
theorem swzChecks_ok (m : MWord) (a : SwzArgs) (j : Job) (h : swzChecks m a = .ok j) :
    ∃ t, tmOf m.tileMode = some t ∧ j = jobOf m t a ∧ m.rsv = 0#3 ∧ a.width ≠ 0#32 ∧ a.height ≠ 0#32 ∧
      a.pitch ≠ 0#32 ∧ 8 ≤ m.bpp.toNat ∧ m.bpp.toNat % 8 = 0 ∧ badBuffers a = false := by
  unfold swzChecks at h
  split at h
  · cases h
  · next hr =>
    split at h
    · cases h
    · next t ht =>
      split at h
      · cases h
      · next hd =>
        split at h
        · cases h
        · next hb =>
          cases h
          simp only [not_or, not_not, ne_eq, not_lt, Bool.not_eq_true] at hr hd hb
          exact ⟨t, ht, rfl, hr, hd.1, hd.2.1, hd.2.2, hb.1, hb.2.1, hb.2.2⟩

/-- What holds of the buffers when they pass the checks of R192. -/
theorem badBuffers_false (a : SwzArgs) (h : badBuffers a = false) :
    a.linBase.toNat + a.linLen.toNat ≤ memSize ∧ a.tiledBase.toNat + a.tiledLen.toNat ≤ memSize ∧
      (a.linLen.toNat = 0 ∨ a.tiledLen.toNat = 0 ∨ a.tiledBase.toNat + a.tiledLen.toNat ≤ a.linBase.toNat ∨
        a.linBase.toNat + a.linLen.toNat ≤ a.tiledBase.toNat) := by
  simp only [badBuffers, Bool.or_eq_false_iff, Bool.and_eq_false_iff, decide_eq_false_iff_not] at h
  omega

/-- A SWZ or DSWZ raises an exception, is cut off by RESET, or ends (R198, R231). -/
theorem runSwz_cases (op : Op) (d : Dir) (m : MWord) (a : SwzArgs) (s : State) :
    (∃ c, swzChecks m a = .error c ∧ runSwz op d m a s = errResponse op.code c.code s) ∨
    (∃ j t, swzChecks m a = .ok j ∧ elements profile d j (j.wI * j.hI) (startLoop s) = .error t ∧
      runSwz op d m a s = inReset t) ∨
    (∃ j t, swzChecks m a = .ok j ∧ elements profile d j (j.wI * j.hI) (startLoop s) = .ok t ∧
      runSwz op d m a s = finishSwz op t) := by
  unfold runSwz
  split
  · next c hc => exact .inl ⟨c, hc, rfl⟩
  · next j hj =>
    split
    · next t ht => exact .inr (.inl ⟨j, t, hj, ht, rfl⟩)
    · next t ht => exact .inr (.inr ⟨j, t, hj, ht, rfl⟩)

/-! ### The transitions of PHASE -/

/-- IDLE (R26, R60, R70): the block waits; an illegal header is answered; a legal one is latched. -/
theorem takeHeader_cases (s : State) :
    (s.cmdQ = [] ∧ takeHeader s = s) ∨
    (∃ w ws, s.cmdQ = w :: ws ∧ Op.ofHeader w = none ∧
      takeHeader s = errResponse (headerOpc w) 0x01#8 { s with cmdQ := ws }) ∨
    (∃ w ws op, s.cmdQ = w :: ws ∧ Op.ofHeader w = some op ∧
      takeHeader s = { s with
        cmdQ := ws, req := s.req.latchHeader op, owed := op.format.operandWords,
        phase := if op.format.operandWords = 0 then .exec else .recv }) := by
  unfold takeHeader
  split
  · next h => exact .inl ⟨h, rfl⟩
  · next w ws h =>
    split
    · next hw => exact .inr (.inl ⟨w, ws, h, hw, rfl⟩)
    · next op hw => exact .inr (.inr ⟨w, ws, op, h, hw, rfl⟩)

/-- RECV (R24, R26): the block waits, or latches the next operand word. -/
theorem takeOperand_cases (op : Op) (s : State) :
    (s.cmdQ = [] ∧ takeOperand op s = s) ∨
    (∃ w ws, s.cmdQ = w :: ws ∧ takeOperand op s = { s with
      cmdQ := ws, req := s.req.latch op (op.format.operandWords + 1 - s.owed) w, owed := s.owed - 1,
      phase := if s.owed ≤ 1 then .exec else .recv }) := by
  unfold takeOperand
  split
  · next h => exact .inl ⟨h, rfl⟩
  · next w ws h => exact .inr ⟨w, ws, h, rfl⟩

/-- SEND (R26, R61, R237): the block waits, or the host takes a word, perhaps the last. -/
theorem drain_cases (s : State) :
    (s.rspReady = false ∧ drain s = s) ∨
    (s.rspReady = true ∧ s.rspQ = [] ∧ drain s = toIdle s) ∨
    (∃ w, s.rspReady = true ∧ s.rspQ = [w] ∧ drain s = toIdle { s with rspTaken := s.rspTaken ++ [w] }) ∨
    (∃ w w' ws, s.rspReady = true ∧ s.rspQ = w :: w' :: ws ∧
      drain s = { s with rspTaken := s.rspTaken ++ [w], rspQ := w' :: ws }) := by
  unfold drain
  split
  · next hr =>
    split
    · next h => exact .inr (.inl ⟨hr, h, rfl⟩)
    · next w h => exact .inr (.inr (.inl ⟨w, hr, h, rfl⟩))
    · next w w' ws h => exact .inr (.inr (.inr ⟨w, w', ws, hr, h, rfl⟩))
  · next hr => exact .inl ⟨by simpa using hr, rfl⟩

/-- What a step can do. -/
theorem step_cases (s : State) :
    (s.resetIn = true ∧ step s = .next (inReset s)) ∨
    (s.resetIn = false ∧ s.phase = .idle ∧ step s = .next (takeHeader s)) ∨
    (s.resetIn = false ∧ s.phase = .recv ∧
      ((Op.ofCode s.req.opc = none ∧ step s = .fault .noCommand) ∨
        ∃ op, Op.ofCode s.req.opc = some op ∧ step s = .next (takeOperand op s))) ∨
    (s.resetIn = false ∧ s.phase = .exec ∧
      ((Op.ofCode s.req.opc = none ∧ step s = .fault .noCommand) ∨
        ∃ op, Op.ofCode s.req.opc = some op ∧ step s = exec (s.req.instrOf op) s)) ∨
    (s.resetIn = false ∧ s.phase = .send ∧ step s = .next (drain s)) := by
  unfold step
  by_cases hr : s.resetIn = true
  · exact .inl ⟨hr, by rw [if_pos hr]⟩
  · right
    have hr' : s.resetIn = false := by simpa using hr
    rw [if_neg hr]
    cases hp : s.phase with
    | idle => exact .inl ⟨hr', rfl, rfl⟩
    | recv =>
      refine .inr (.inl ⟨hr', rfl, ?_⟩)
      cases ho : Op.ofCode s.req.opc with
      | none => exact .inl ⟨rfl, rfl⟩
      | some op => exact .inr ⟨op, rfl, rfl⟩
    | exec =>
      refine .inr (.inr (.inl ⟨hr', rfl, ?_⟩))
      cases ho : Op.ofCode s.req.opc with
      | none => exact .inl ⟨rfl, by simp [Req.instr?, ho]⟩
      | some op => exact .inr ⟨op, rfl, by simp [Req.instr?, ho]⟩
    | send => exact .inr (.inr (.inr ⟨hr', rfl, rfl⟩))

/-- Every command but SWZ and DSWZ ends with `answer`: its meaning is a function of its operands alone (R14). -/
theorem exec_answer (i : Instr) (h : i.op ≠ .swz ∧ i.op ≠ .dswz) :
    ∃ r, ∀ s', exec i s' = .next (answer i.op r s') := by
  cases i with
  | rdprof => exact ⟨_, fun _ => rfl⟩
  | fmtinfo c => exact ⟨_, fun _ => rfl⟩
  | tmprop m => exact ⟨_, fun _ => rfl⟩
  | tmresolve m w h d => exact ⟨_, fun _ => rfl⟩
  | mtgeom m => exact ⟨_, fun _ => rfl⟩
  | align m => exact ⟨_, fun _ => rfl⟩
  | bswidth m p => exact ⟨_, fun _ => rfl⟩
  | surfinfo m w h d c => exact ⟨_, fun _ => rfl⟩
  | addrlin m a => exact ⟨_, fun _ => rfl⟩
  | pixidx m x y z => exact ⟨_, fun _ => rfl⟩
  | addrmic m a => exact ⟨_, fun _ => rfl⟩
  | pipebank m a => exact ⟨_, fun _ => rfl⟩
  | addrmac m a => exact ⟨_, fun _ => rfl⟩
  | swz m a => exact absurd rfl h.1
  | dswz m a => exact absurd rfl h.2

end Sys2Proof.Machine
end

