-- ==== Sys2Proof/Laws/PerInstr.lean ====
section
/-! SUPPORT. One lemma per command about its encoding: the packet starts with the command's header, the header names the
command, and the packet has the length of its format (spec/30_encoding.md R62 to R65, R69). -/

namespace Sys2Proof

/-- What is stated of each command's packet. -/
def Laws.PacketShape.Statement (i : Instr) : Prop :=
  (encode i).head? = some i.op.header ∧ Op.ofHeader i.op.header = some i.op ∧
    (encode i).length = 1 + i.op.format.operandWords

theorem Laws.PacketShape.rdprof : Statement .rdprof := ⟨rfl, by simp, rfl⟩
theorem Laws.PacketShape.fmtinfo (c : Word) : Statement (.fmtinfo c) := ⟨rfl, by simp, rfl⟩
theorem Laws.PacketShape.tmprop (m : MWord) : Statement (.tmprop m) := ⟨rfl, by simp, rfl⟩
theorem Laws.PacketShape.tmresolve (m : MWord) (w h d : Word) : Statement (.tmresolve m w h d) := ⟨rfl, by simp, rfl⟩
theorem Laws.PacketShape.mtgeom (m : MWord) : Statement (.mtgeom m) := ⟨rfl, by simp, rfl⟩
theorem Laws.PacketShape.align (m : MWord) : Statement (.align m) := ⟨rfl, by simp, rfl⟩
theorem Laws.PacketShape.bswidth (m : MWord) (p : Word) : Statement (.bswidth m p) := ⟨rfl, by simp, rfl⟩
theorem Laws.PacketShape.surfinfo (m : MWord) (w h d c : Word) : Statement (.surfinfo m w h d c) := ⟨rfl, by simp, rfl⟩
theorem Laws.PacketShape.addrlin (m : MWord) (a : AddrArgs) : Statement (.addrlin m a) := ⟨rfl, by simp, rfl⟩
theorem Laws.PacketShape.pixidx (m : MWord) (x y z : Word) : Statement (.pixidx m x y z) := ⟨rfl, by simp, rfl⟩
theorem Laws.PacketShape.addrmic (m : MWord) (a : AddrArgs) : Statement (.addrmic m a) := ⟨rfl, by simp, rfl⟩
theorem Laws.PacketShape.pipebank (m : MWord) (a : AddrArgs) : Statement (.pipebank m a) := ⟨rfl, by simp, rfl⟩
theorem Laws.PacketShape.addrmac (m : MWord) (a : AddrArgs) : Statement (.addrmac m a) := ⟨rfl, by simp, rfl⟩
theorem Laws.PacketShape.swz (m : MWord) (a : SwzArgs) : Statement (.swz m a) := ⟨rfl, by simp, rfl⟩
theorem Laws.PacketShape.dswz (m : MWord) (a : SwzArgs) : Statement (.dswz m a) := ⟨rfl, by simp, rfl⟩

end Sys2Proof
end

