-- ==== Sys2Proof/Tests/Slice0.lean ====
section
/-! SUPPORT. Tests: the well-formedness check, decoded packets, one or two results of each command from the worked examples
and test vectors of the spec (each names its rule or vector), and for every statement with hypotheses a state and operands
that meet them. -/

namespace Sys2Proof.Tests

open Sys2Proof Sys2Proof.Machine

/-! ### Helpers -/

/-- An M-word of the three fields most commands read. -/
def mw (tileMode sampleCount bpp : Nat) : MWord where
  tileMode := BitVec.ofNat 5 tileMode
  dim := 0#3
  mipLevel := 0#4
  sampleCount := BitVec.ofNat 4 sampleCount
  isDepthBuffer := 0#1
  pipeSwizzle := 0#1
  bankSwizzle := 0#2
  isBC := 0#1
  rsv := 0#3
  bpp := BitVec.ofNat 8 bpp

/-- An M-word whose reserved bits are not zero. -/
def badM : MWord := { mw 4 1 32 with rsv := 1#3 }

/-- Format A's operands with sample and depthSlices 0. -/
def coord (x y slice pitch height : Nat) : AddrArgs where
  x := BitVec.ofNat 32 x
  y := BitVec.ofNat 32 y
  slice := BitVec.ofNat 32 slice
  sample := 0#32
  pitch := BitVec.ofNat 32 pitch
  height := BitVec.ofNat 32 height
  depthSlices := 0#32

/-- A small image of one-byte elements in tile mode 0: linear buffer at 0x10, tiled buffer at 0x20. -/
def image (width height linLen tiledLen : Nat) : SwzArgs where
  width := BitVec.ofNat 32 width
  height := BitVec.ofNat 32 height
  pitch := 2#32
  surfHeight := 2#32
  surfDepth := 1#32
  swizzleValue := 0#32
  linBase := 0x10#32
  linLen := BitVec.ofNat 32 linLen
  tiledBase := 0x20#32
  tiledLen := BitVec.ofNat 32 tiledLen

/-- The reset state with some memory. -/
def withMem (m : Memory) : State := { State.reset with mem := m }

/-- The words offered on RSP after a command ran in the reset state. -/
def answerOf (i : Instr) : List Word :=
  match exec i State.reset with
  | .next t => t.rspQ
  | .fault _ => []
  | .refused _ => []

/-- The memory after a command ran in a state. -/
def memAfter (i : Instr) (s : State) : Memory :=
  match exec i s with
  | .next t => t.mem
  | .fault _ => []
  | .refused _ => []

/-- PHASE and the offered words after a step. -/
def phaseAfter (s : State) : Option (Phase × List Word) :=
  match step s with
  | .next t => some (t.phase, t.rspQ)
  | .fault _ => none
  | .refused _ => none

/-! ### Well-formedness: reserved M-word bits are refused in every format that has an M-word (R63, R71) -/

theorem test_wellFormed_refuses :
    [Instr.tmprop badM, .tmresolve badM 1#32 1#32 1#32, .mtgeom badM, .align badM, .bswidth badM 1#32,
      .surfinfo badM 1#32 1#32 1#32 1#32, .addrlin badM (coord 0 0 0 1 1), .pixidx badM 0#32 0#32 0#32,
      .addrmic badM (coord 0 0 0 1 1), .pipebank badM (coord 0 0 0 1 1), .addrmac badM (coord 0 0 0 1 1),
      .swz badM (image 1 1 1 1), .dswz badM (image 1 1 1 1)].map Instr.wellFormed = List.replicate 13 false := by decide

theorem test_wellFormed_accepts :
    [Instr.rdprof, .fmtinfo 0#32, .tmprop (mw 31 0 0), .swz (mw 4 1 7) (image 0 0 0 0)].map Instr.wellFormed =
      List.replicate 4 true := by decide

/-! ### Decoding: words written out from R62 to R65 and R69 -/

/-- Table family: R90, R95, R98. -/
theorem test_decode_tables :
    decode [0x01000000#32] = .ok (.rdprof, []) ∧
    decode [0x02000000#32, 0x00000431#32] = .ok (.fmtinfo 0x431#32, []) ∧
    decode [0x03000000#32, 0x0000000B#32] = .ok (.tmprop (mw 11 0 0), []) := by decide

/-- Resolver family, R118; every field of the M-word at a value of its own (R63). -/
theorem test_decode_resolver :
    decode [0x10000000#32, 0x20001204#32, 0x10#32, 0x10#32, 0x1#32] =
      .ok (.tmresolve { mw 4 1 32 with mipLevel := 2#4 } 16#32 16#32 1#32, []) ∧
    MWord.ofWord 0x80BB5A71#32 = ⟨0x11#5, 3#3, 0xA#4, 5#4, 1#1, 1#1, 2#2, 1#1, 5#3, 0x80#8⟩ := by decide

/-- Geometry family: R131, R136, R138, R75. -/
theorem test_decode_geometry :
    decode [0x20000000#32, 0x20001004#32] = .ok (.mtgeom (mw 4 1 32), []) ∧
    decode [0x21000000#32, 0x20001004#32] = .ok (.align (mw 4 1 32), []) ∧
    decode [0x22000000#32, 0x20001008#32, 0x40#32] = .ok (.bswidth (mw 8 1 32) 64#32, []) ∧
    decode [0x23000000#32, 0x00001021#32, 0x40#32, 0x40#32, 0x1#32, 0x1A#32] =
      .ok (.surfinfo { mw 1 1 0 with dim := 1#3 } 64#32 64#32 1#32 0x1A#32, []) := by decide

/-- Address family: R160, R163, R165, R174, R179 (a). -/
theorem test_decode_addresses :
    decode [0x30000000#32, 0x20000000#32, 5#32, 3#32, 0#32, 0#32, 64#32, 64#32, 1#32] =
      .ok (.addrlin (mw 0 0 32) { coord 5 3 0 64 64 with depthSlices := 1#32 }, []) ∧
    decode [0x31000000#32, 0x20000002#32, 5#32, 3#32, 0#32] = .ok (.pixidx (mw 2 0 32) 5#32 3#32 0#32, []) ∧
    decode [0x32000000#32, 0x20000002#32, 5#32, 3#32, 0#32, 0#32, 64#32, 64#32, 0#32] =
      .ok (.addrmic (mw 2 0 32) (coord 5 3 0 64 64), []) ∧
    decode [0x33000000#32, 0x200A1004#32, 40#32, 24#32, 0#32, 0#32, 64#32, 0#32, 0#32] =
      .ok (.pipebank { mw 4 1 32 with pipeSwizzle := 1#1, bankSwizzle := 2#2 } (coord 40 24 0 64 0), []) ∧
    decode [0x34000000#32, 0x20001004#32, 31#32, 15#32, 0#32, 0#32, 32#32, 16#32, 0#32] =
      .ok (.addrmac (mw 4 1 32) (coord 31 15 0 32 16), []) := by decide

/-- Swizzle family: R198, R199; every operand word at a value of its own (R65). -/
theorem test_decode_swizzle :
    decode [0x40000000#32, 0x08000002#32, 1#32, 2#32, 3#32, 4#32, 5#32, 6#32, 7#32, 8#32, 9#32, 10#32] =
      .ok (.swz (mw 2 0 8) ⟨1#32, 2#32, 3#32, 4#32, 5#32, 6#32, 7#32, 8#32, 9#32, 10#32⟩, []) ∧
    decode [0x41000000#32, 0x08000002#32, 1#32, 2#32, 3#32, 4#32, 5#32, 6#32, 7#32, 8#32, 9#32, 10#32, 99#32] =
      .ok (.dswz (mw 2 0 8) ⟨1#32, 2#32, 3#32, 4#32, 5#32, 6#32, 7#32, 8#32, 9#32, 10#32⟩, [99#32]) := by decide

/-- What is no packet: no word, an opcode of no command, a header with a low bit set, a packet that is too short (R70,
R235). -/
theorem test_decode_refuses :
    decode [] = .error .noWord ∧ decode [0x04000000#32] = .error (.illegalHeader 0x04000000#32) ∧
    decode [0x01000001#32] = .error (.illegalHeader 0x01000001#32) ∧
    decode [0x02000000#32] = .error (.incomplete .fmtinfo) := by decide

/-- The table's numbering: the first word lowest. -/
theorem test_decodeTableWord :
    decodeTableWord 32 0x01000000 = some .rdprof ∧
    decodeTableWord 64 0x2000100420000000 = some (.mtgeom (mw 4 1 32)) ∧ decodeTableWord 32 0x05000000 = none := by decide

/-- The packet placed for the next step runs (log entry 10); an illegal header answers IllegalCommand (R70). -/
theorem test_withFetchWord :
    phaseAfter (State.reset.withFetchWord 64 0x2000100420000000) =
      some (.send, [0x20000000#32, 32#32, 16#32, 2048#32]) ∧
    phaseAfter (State.reset.withFetchWord 32 0x05000000) = some (.send, [0x05000001#32]) := by decide

/-! ### Results: worked examples of the spec -/

/-- R90. -/
theorem test_rdprof :
    answerOf .rdprof = [0x01000000#32, 2#32, 4#32, 256#32, 2048#32, 256#32, 2048#32, 1#32, 2#32, 8#32] := by decide

/-- R95: a block-compressed format, and a key with a high bit set. -/
theorem test_fmtinfo :
    answerOf (.fmtinfo 0x431#32) = [0x02000000#32, 0x140#32] ∧ answerOf (.fmtinfo 0x8000001A#32) = [0x02000002#32] := by
  decide

/-- R98. -/
theorem test_tmprop :
    answerOf (.tmprop (mw 11 0 0)) = [0x03000000#32, 0x134#32] ∧ answerOf (.tmprop (mw 17 0 0)) = [0x03000003#32] := by decide

/-- R118's example; and R121: mode 11 at 128 bits loses its bank swap. -/
theorem test_tmresolve :
    answerOf (.tmresolve { mw 4 1 32 with mipLevel := 2#4 } 16#32 16#32 1#32) = [0x10000000#32, 2#32] ∧
    answerOf (.tmresolve (mw 11 1 128) 64#32 64#32 8#32) = [0x10000000#32, 7#32] := by decide

/-- R131. -/
theorem test_mtgeom :
    answerOf (.mtgeom (mw 6 1 64)) = [0x20000000#32, 8#32, 64#32, 4096#32] ∧
    answerOf (.mtgeom (mw 2 1 64)) = [0x20000007#32] := by decide

/-- R136: a thick mode whose slices are split, and four samples. -/
theorem test_align :
    answerOf (.align (mw 7 1 128)) = [0x21000000#32, 4096#32, 32#32, 16#32, 4#32, 32#32, 16#32] ∧
    answerOf (.align (mw 4 4 32)) = [0x21000000#32, 8192#32, 32#32, 16#32, 1#32, 32#32, 16#32] := by decide

/-- R138. -/
theorem test_bswidth :
    answerOf (.bswidth (mw 8 1 32) 64#32) = [0x22000000#32, 64#32] ∧
    answerOf (.bswidth (mw 11 1 8) 1024#32) = [0x22000000#32, 256#32] := by decide

/-- R140: the block-compressed second example, and the pitch that does not fit. -/
theorem test_surfinfo :
    answerOf (.surfinfo { mw 4 1 0 with dim := 1#3 } 30#32 18#32 1#32 0x31#32) =
      [0x23000000#32, 32#32, 16#32, 1#32, 64#32, 4096#32, 0#32, 4#32, 4096#32, 32#32, 16#32, 1#32] ∧
    answerOf (.surfinfo (mw 4 1 0) 0xFFFFFFFF#32 1#32 1#32 0x1A#32) = [0x23000008#32] := by decide

/-- R160: slices and samples, and a `bpp` that is no whole byte. -/
theorem test_addrlin :
    answerOf (.addrlin (mw 0 0 32) ⟨5#32, 3#32, 2#32, 1#32, 64#32, 64#32, 4#32⟩) = [0x30000000#32, 99092#32, 0#32] ∧
    answerOf (.addrlin (mw 0 0 4) (coord 3 0 0 64 64)) = [0x30000000#32, 1#32, 0#32] := by decide

/-- R163: the two coordinates swapped, and a thick mode. -/
theorem test_pixidx :
    answerOf (.pixidx (mw 2 0 32) 5#32 3#32 0#32) = [0x31000000#32, 29#32] ∧
    answerOf (.pixidx (mw 3 0 32) 3#32 5#32 3#32) = [0x31000000#32, 231#32] := by decide

/-- R165. -/
theorem test_addrmic :
    answerOf (.addrmic (mw 2 0 32) (coord 5 3 1 64 64)) = [0x32000000#32, 16500#32, 0#32] ∧
    answerOf (.addrmic (mw 3 0 8) (coord 9 10 5 16 16)) = [0x32000000#32, 1865#32, 0#32] := by decide

/-- R174: swizzle, and bank swap. -/
theorem test_pipebank :
    answerOf (.pipebank { mw 4 1 32 with pipeSwizzle := 1#1, bankSwizzle := 2#2 } (coord 40 24 0 64 0)) =
      [0x33000000#32, 0x3011#32] ∧
    answerOf (.pipebank (mw 8 1 32) (coord 255 0 0 256 0)) = [0x33000000#32, 0x3121#32] := by decide

/-- R179 (e) and (f). -/
theorem test_addrmac :
    answerOf (.addrmac (mw 11 1 32) (coord 130 3 5 256 64)) = [0x34000000#32, 298072#32, 0#32] ∧
    answerOf (.addrmac { mw 12 1 32 with pipeSwizzle := 1#1, bankSwizzle := 2#2 } (coord 5 3 3 64 64)) =
      [0x34000000#32, 49268#32, 0#32] := by decide

/-- R194, R196, R201: two rows of two elements, pitch 2, and a linear buffer of three bytes: three are copied, one is
skipped, and the byte of the skipped one stays. -/
theorem test_swz :
    answerOf (.swz (mw 0 0 8) (image 2 2 3 4)) = [0x40000100#32, 3#32, 0#32, 1#32, 0#32] ∧
    memAfter (.swz (mw 0 0 8) (image 2 2 3 4)) (withMem [(0x10, 1#8), (0x11, 2#8), (0x12, 3#8), (0x13, 4#8), (0x23, 9#8)]) =
      [(0x10, 1#8), (0x11, 2#8), (0x12, 3#8), (0x13, 4#8), (0x20, 1#8), (0x21, 2#8), (0x22, 3#8), (0x23, 9#8)] := by decide

/-- R192, R199: overlapping buffers; and a copy to the linear buffer. -/
theorem test_dswz :
    answerOf (.dswz (mw 0 0 8) (image 2 2 0x11 4)) = [0x41000007#32] ∧
    memAfter (.dswz (mw 0 0 8) (image 2 1 2 4)) (withMem [(0x10, 7#8), (0x12, 7#8), (0x21, 5#8)]) =
      [(0x11, 5#8), (0x12, 7#8), (0x21, 5#8)] := by decide

/-! ### Witnesses: for every statement with hypotheses, a state and operands that meet them -/

/-- A command in EXEC (MTGEOM), over a memory that is not empty. -/
def inExec : State :=
  { State.reset with phase := .exec, req := { Req.zero with opc := 0x20#8, m := mw 4 1 32 }, mem := [(5, 1#8)] }

/-- A SWZ in EXEC; the host asserts RESET before the second byte access. -/
def inSwz (turns : List (List HostAct)) : State :=
  { State.reset with
    phase := .exec
    req := { Req.zero with
      opc := 0x40#8, m := mw 0 0 8, width := 2#32, height := 2#32, pitch := 2#32, surfHeight := 2#32, surfDepth := 1#32
      linBase := 0x10#32, linLen := 4#32, tiledBase := 0x20#32, tiledLen := 4#32 }
    mem := [(0x10, 1#8)]
    hostTurns := turns }

/-- FMTINFO in RECV, its operand word waiting or not. -/
def inRecv (ws : List Word) : State :=
  { State.reset with phase := .recv, owed := 1, cmdQ := ws, req := { Req.zero with opc := 0x02#8 } }

/-- BSWIDTH in RECV, two operand words owed. -/
def inRecvTwo : State :=
  { State.reset with phase := .recv, owed := 2, cmdQ := [0x20001008#32], req := { Req.zero with opc := 0x22#8 } }

/-- The response of TMPROP in SEND, with `k` of its two words still to go. -/
def inSend (ready : Bool) (k : Nat) : State :=
  { State.reset with
    phase := .send
    rspReady := ready
    rsp := { opc := 0x03#8, flags := 0#8, status := 0#8, words := [0x134#32] }
    rspQ := [0x03000000#32, 0x134#32].drop (2 - k) }

/-- A header waiting in IDLE. -/
def inIdle (ws : List Word) : State := { State.reset with cmdQ := ws }

theorem inExec_inv : inExec.Inv := ⟨by decide, by decide, rfl, rfl, .mtgeom, by decide⟩
theorem inSwz_inv (turns : List (List HostAct)) : (inSwz turns).Inv :=
  ⟨(by decide : memWf [(0x10, 1#8)] = true), (by decide : 0 ≤ 11), rfl, rfl, .swz, rfl⟩
theorem inRecv_inv (ws : List Word) : (inRecv ws).Inv := ⟨rfl, (by decide : 0 ≤ 11), rfl, le_refl 1, .fmtinfo, rfl, le_refl 1⟩
theorem inRecvTwo_inv : inRecvTwo.Inv := ⟨rfl, by decide, rfl, by decide, .bswidth, rfl, by decide⟩
theorem inSend_inv (b : Bool) : (inSend b 2).Inv ∧ (inSend b 1).Inv := by
  constructor
  · refine ⟨rfl, (by decide : 1 ≤ 11), rfl, (by decide : [0x03000000#32, 0x134#32] ≠ []), ⟨[], by cases b <;> decide⟩, ?_⟩
    exact ⟨(by decide : 0#8 ∈ producedStatus), .inl rfl, fun h => absurd rfl h⟩
  · refine ⟨rfl, (by decide : 1 ≤ 11), rfl, (by decide : [0x134#32] ≠ []), ⟨[0x03000000#32], by cases b <;> decide⟩, ?_⟩
    exact ⟨(by decide : 0#8 ∈ producedStatus), .inl rfl, fun h => absurd rfl h⟩
theorem inIdle_inv (ws : List Word) : (inIdle ws).Inv := ⟨rfl, (by decide : 0 ≤ 11), rfl, rfl⟩

/-- A step answered a next state. -/
def steps (s : State) : Prop := ∃ t, step s = .next t
/-- A command answered a next state in SEND, with this STATUS. -/
def answers (i : Instr) (s : State) (status : BitVec 8) : Prop :=
  ∃ t, exec i s = .next t ∧ t.phase = .send ∧ t.rsp.status = status

theorem witness_EveryStepKeepsInvariant :
    (inExec.Inv ∧ steps inExec) ∧ (inSwz []).Inv ∧ steps (inSwz []) := ⟨⟨inExec_inv, _, rfl⟩, inSwz_inv [], _, rfl⟩

theorem witness_EveryStepFromInvariantAnswersNext : State.reset.Inv ∧ inExec.Inv := ⟨inIdle_inv [], inExec_inv⟩

/-- Every case of the transitions: IDLE with no word, an illegal header, a multi-word and a one-word command; RECV with no
word, the last one, an earlier one; EXEC ending and cut off; SEND not ready, with one word left and with two. -/
theorem witness_PhaseTransitionsAreThoseListed :
    (∀ ws, (inIdle ws).Inv ∧ (inIdle ws).resetIn = false) ∧
    (steps (inIdle []) ∧ steps (inIdle [5#32]) ∧ steps (inIdle [0x02000000#32]) ∧ steps (inIdle [0x01000000#32])) ∧
    (∀ ws, (inRecv ws).Inv ∧ (inRecv ws).resetIn = false) ∧ (steps (inRecv []) ∧ steps (inRecv [0x1A#32])) ∧
    (inRecvTwo.Inv ∧ inRecvTwo.resetIn = false ∧ steps inRecvTwo) ∧
    (inExec.Inv ∧ inExec.resetIn = false ∧ steps inExec) ∧
    ((inSwz [[], [.assertReset]]).Inv ∧ (inSwz [[], [.assertReset]]).resetIn = false ∧ steps (inSwz [[], [.assertReset]])) ∧
    (∀ b, (inSend b 2).Inv ∧ (inSend b 1).Inv ∧ (inSend b 2).resetIn = false ∧ (inSend b 1).resetIn = false) ∧
    (steps (inSend false 2) ∧ steps (inSend true 2) ∧ steps (inSend true 1)) :=
  ⟨fun ws => ⟨inIdle_inv ws, rfl⟩, ⟨⟨_, rfl⟩, ⟨_, rfl⟩, ⟨_, rfl⟩, ⟨_, rfl⟩⟩, fun ws => ⟨inRecv_inv ws, rfl⟩,
    ⟨⟨_, rfl⟩, ⟨_, rfl⟩⟩, ⟨inRecvTwo_inv, rfl, _, rfl⟩, ⟨inExec_inv, rfl, _, rfl⟩, ⟨inSwz_inv _, rfl, _, rfl⟩,
    fun b => ⟨(inSend_inv b).1, (inSend_inv b).2, rfl, rfl⟩, ⟨_, rfl⟩, ⟨_, rfl⟩, ⟨_, rfl⟩⟩

theorem witness_CommandWordsTakenInOrder :
    steps (inIdle [5#32]) ∧ (inIdle [5#32]).resetIn = false ∧ (inIdle [5#32]).phase = .idle ∧ (inIdle [5#32]).cmdQ = [5#32] :=
  ⟨⟨_, rfl⟩, rfl, rfl, rfl⟩

theorem witness_ResponseWordsTakenInOrder : steps (inSend true 2) ∧ steps (inSend true 1) := ⟨⟨_, rfl⟩, ⟨_, rfl⟩⟩

theorem witness_WholeResponseDrains :
    (inSend true 2).phase = .send ∧ (inSend true 2).resetIn = false ∧ (inSend true 2).rspReady = true ∧
      (inSend true 2).rspQ ≠ [] := ⟨rfl, rfl, rfl, by decide⟩

theorem witness_ResetInputDropsTheCommand : ({ inExec with resetIn := true } : State).resetIn = true := rfl

theorem witness_WaitingBlockChangesNothing :
    ((inIdle []).Inv ∧ (inIdle []).phase = .idle ∧ (inIdle []).cmdQ = []) ∧
    ((inRecv []).Inv ∧ (inRecv []).phase = .recv ∧ (inRecv []).cmdQ = []) ∧
    ((inSend false 2).Inv ∧ (inSend false 2).phase = .send ∧ (inSend false 2).rspReady = false) :=
  ⟨⟨inIdle_inv _, rfl, rfl⟩, ⟨inRecv_inv _, rfl, rfl⟩, (inSend_inv _).1, rfl, rfl⟩

theorem witness_EncodeDecodeRoundTrip :
    decode [0x02000000#32, 0x1A#32, 7#32] = .ok (.fmtinfo 0x1A#32, [7#32]) := by decide

/-- A legal header, a header with its lowest bit set, and an opcode of no command. -/
theorem witness_HeaderLegalOrAnsweredIllegal :
    (∀ w, (inIdle [w]).resetIn = false ∧ (inIdle [w]).phase = .idle ∧ (inIdle [w]).cmdQ = [w]) ∧
    Op.ofHeader 0x41000000#32 = some .dswz ∧ Op.ofHeader 0x41000001#32 = none ∧ Op.ofHeader 0x42000000#32 = none :=
  ⟨fun _ => ⟨rfl, rfl, rfl⟩, by decide, by decide, by decide⟩

theorem witness_ReservedBitsAnswerIllegal : (Instr.tmprop badM).mword? = some badM ∧ badM.rsv ≠ 0#3 := ⟨rfl, by decide⟩

theorem witness_StepRunsTheDecodedCommand :
    decode [0x20000000#32, 0x20001004#32, 7#32] = .ok (.mtgeom (mw 4 1 32), [7#32]) := by decide

/-- The shortest packet, the longest one with a word behind it. -/
theorem witness_PacketOnCmdRunsItsCommand :
    (∀ ws, (inIdle ws).phase = .idle ∧ (inIdle ws).resetIn = false) ∧
    decode (inIdle [0x01000000#32]).cmdQ = .ok (.rdprof, []) ∧
    decode (inIdle [0x40000000#32, 0x08000000#32, 2#32, 2#32, 2#32, 2#32, 1#32, 0#32, 0x10#32, 3#32, 0x20#32, 4#32, 5#32]).cmdQ
      = .ok (.swz (mw 0 0 8) (image 2 2 3 4), [5#32]) := ⟨fun _ => ⟨rfl, rfl⟩, by decide, by decide⟩

/-- A first failing check for every command that has one. -/
theorem witness_FirstFailingCheckIsReported :
    firstCause (causes (.fmtinfo 0x99#32)) 0x02#8 ∧ firstCause (causes (.tmprop (mw 17 0 0))) 0x03#8 ∧
    firstCause (causes (.tmresolve (mw 16 0 0) 0#32 0#32 0#32)) 0x04#8 ∧ firstCause (causes (.mtgeom (mw 3 1 8))) 0x07#8 ∧
    firstCause (causes (.align (mw 16 15 0))) 0x07#8 ∧ firstCause (causes (.bswidth (mw 8 1 0) 0#32)) 0x05#8 ∧
    firstCause (causes (.surfinfo (mw 20 4 0) 0#32 1#32 1#32 0x99#32)) 0x02#8 ∧
    firstCause (causes (.addrlin (mw 31 0 0) (coord 0 0 0 0 0))) 0x07#8 ∧
    firstCause (causes (.pixidx badM 0#32 0#32 0#32)) 0x01#8 ∧
    firstCause (causes (.addrmic (mw 4 0 8) (coord 0 0 0 0 0))) 0x07#8 ∧
    firstCause (causes (.pipebank (mw 4 2 8) (coord 0 0 0 0 0))) 0x04#8 ∧
    firstCause (causes (.addrmac (mw 4 1 8) (coord 0 0 0 0 0))) 0x05#8 ∧
    firstCause (causes (.swz (mw 0 0 12) (image 1 1 1 1))) 0x07#8 ∧
    firstCause (causes (.dswz (mw 0 0 8) (image 1 1 0x11 1))) 0x07#8 := by
  simp [firstCause, causes, knownFormat, badMode, modeOutside, buffersBad, mw, badM, coord, image]

theorem witness_ExceptionMatrixIsExact :
    answers (.tmprop badM) State.reset 0x01#8 ∧ answers (.dswz (mw 0 0 12) (image 1 1 1 1)) State.reset 0x07#8 ∧
      0x08#8 ∈ matrixRow .addrmac := ⟨⟨_, rfl, rfl, rfl⟩, ⟨_, rfl, rfl, rfl⟩, by decide⟩

theorem witness_ExceptionHasNoOtherEffect : answers (.tmprop badM) inExec 0x01#8 := ⟨_, rfl, rfl, rfl⟩

/-- An exception, a result, and a SWZ that skips an element. -/
theorem witness_ResponseHasItsLayout :
    answers (.tmprop badM) State.reset 0x01#8 ∧ answers (.mtgeom (mw 4 1 32)) State.reset 0x00#8 ∧
      answers (.swz (mw 0 0 8) (image 2 2 3 4)) State.reset 0x00#8 :=
  ⟨⟨_, rfl, rfl, rfl⟩, ⟨_, rfl, rfl, rfl⟩, ⟨_, rfl, rfl, rfl⟩⟩

theorem witness_OtherCommandsChangeTheResponseOnly :
    (Instr.mtgeom (mw 4 1 32)).op ≠ .swz ∧ (Instr.mtgeom (mw 4 1 32)).op ≠ .dswz ∧
      answers (.mtgeom (mw 4 1 32)) inExec 0x00#8 := ⟨by decide, by decide, _, rfl, rfl, rfl⟩

theorem witness_MemoryChangesOnlyInSwzAndDswz : ∃ t, step (inSwz []) = .next t ∧ t.mem ≠ (inSwz []).mem :=
  ⟨_, rfl, by decide⟩

theorem witness_ReqStaysUntilTheResponseIsSent :
    (inExec.phase = .exec ∧ ∃ t, step inExec = .next t ∧ t.phase ≠ .idle) ∧
    ((inSend true 2).phase = .send ∧ ∃ t, step (inSend true 2) = .next t ∧ t.phase ≠ .idle) :=
  ⟨⟨rfl, _, rfl, by decide⟩, rfl, _, rfl, by decide⟩

theorem witness_LoopStateOfBeforeIsNeverRead :
    answers (.swz (mw 0 0 8) (image 2 2 3 4)) { State.reset with loop := ⟨1, 1, 7#64, 7#64⟩ } 0x00#8 := ⟨_, rfl, rfl, rfl⟩

/-- Two memories that agree on the buffers and differ elsewhere. -/
theorem witness_ResultsDependOnPacketAndBuffersAlone :
    quiet (withMem [(0x10, 1#8)]) ∧ quiet (withMem [(1, 1#8), (0x10, 1#8)]) ∧
    memWf (withMem [(0x10, 1#8)]).mem = true ∧ memWf (withMem [(1, 1#8), (0x10, 1#8)]).mem = true ∧
    (∀ b, (0x10 ≤ b ∧ b < 0x10 + 4) ∨ (0x20 ≤ b ∧ b < 0x20 + 4) →
      memGet (withMem [(0x10, 1#8)]).mem b = memGet (withMem [(1, 1#8), (0x10, 1#8)]).mem b) ∧
    answers (.swz (mw 0 0 8) (image 2 2 4 4)) (withMem [(0x10, 1#8)]) 0x00#8 ∧
    answers (.swz (mw 0 0 8) (image 2 2 4 4)) (withMem [(1, 1#8), (0x10, 1#8)]) 0x00#8 := by
  refine ⟨⟨rfl, rfl⟩, ⟨rfl, rfl⟩, by decide, by decide, fun b hb => ?_, ⟨_, rfl, rfl, rfl⟩, ⟨_, rfl, rfl, rfl⟩⟩
  simp only [withMem, memGet]
  rw [if_neg (show ¬ (1 = b) by omega)]

theorem witness_FmtinfoAnswersTheFormatTable : ¬ knownFormat 0x99#32 := by simp [knownFormat]

theorem witness_TmpropAnswersTheModeTable :
    ((mw 16 0 0).rsv = 0#3 ∧ (mw 16 0 0).tileMode.toNat ≤ 16) ∧ badM.rsv ≠ 0#3 ∧
      (mw 17 0 0).rsv = 0#3 ∧ 17 ≤ (mw 17 0 0).tileMode.toNat := by decide

/-- The hypotheses of TMRESOLVE and ALIGN at the ends of the operands' ranges; a thick mode at a level above 0. -/
theorem witness_TmresolveAnswersTheResultTable :
    ∀ m ∈ [mw 16 1 1, mw 15 15 255, { mw 13 1 8 with mipLevel := 15#4 }],
      m.rsv = 0#3 ∧ m.tileMode.toNat ≤ 16 ∧ m.sampleCount ≠ 0#4 ∧ m.bpp ≠ 0#8 := by decide

theorem witness_ResolverOnlySimplifies :
    tmFamily .linearSpecial = .linear ∧ (⟨8, 0, 1, 1, 1, 1, false⟩ : ResolveArgs).mipLevel = 0 ∧
      0 < (⟨8, 1, 1, 1, 1, 1, false⟩ : ResolveArgs).mipLevel := by decide

theorem witness_MtgeomAnswersTheMacroTile :
    ∀ m ∈ [mw 4 1 1, mw 15 15 255],
      m.rsv = 0#3 ∧ 4 ≤ m.tileMode.toNat ∧ m.tileMode.toNat ≤ 15 ∧ m.sampleCount ≠ 0#4 ∧ m.bpp ≠ 0#8 := by decide

theorem witness_AlignAnswersTheAlignments :
    ∀ m ∈ [mw 0 1 1, mw 1 1 8, mw 3 15 255, mw 4 1 1, mw 16 1 1],
      m.rsv = 0#3 ∧ m.tileMode.toNat ≤ 16 ∧ m.sampleCount ≠ 0#4 ∧ m.bpp ≠ 0#8 := by decide

/-- A mode that is not bank-swapped and one that is. -/
theorem witness_BswidthAnswersTheHalvedWidth :
    (∀ m ∈ [mw 7 1 1, mw 8 15 255], m.rsv = 0#3 ∧ m.tileMode.toNat ≤ 16 ∧ m.sampleCount ≠ 0#4 ∧ m.bpp ≠ 0#8) ∧
      (1#32 : Word) ≠ 0#32 ∧ ¬ codeSwapped (mw 7 1 1).tileMode.toNat ∧ codeSwapped (mw 8 15 255).tileMode.toNat := by decide

/-- A surface that fits and one whose pitch does not. -/
theorem witness_SurfinfoAnswersTheGeometry :
    ((mw 4 1 0).rsv = 0#3 ∧ (mw 4 1 0).sampleCount = 1#4 ∧ (mw 4 1 0).mipLevel.toNat ≤ 13 ∧
      tmOf (mw 4 1 0).tileMode = some .tiled2DThin1 ∧ (0xFFFFFFFF#32 : Word) ≠ 0#32 ∧
      fmt? 0x1A#32 = some ⟨0x1A, 32, false⟩) ∧
    answers (.surfinfo (mw 4 1 0) 1#32 1#32 1#32 0x1A#32) State.reset 0x00#8 ∧
    answers (.surfinfo (mw 4 1 0) 0xFFFFFFFF#32 1#32 1#32 0x1A#32) State.reset 0x08#8 :=
  ⟨by decide, ⟨_, rfl, rfl, by decide⟩, ⟨_, rfl, rfl, by decide⟩⟩

theorem witness_SurfinfoResultIsAligned :
    answers (.surfinfo (mw 8 1 0) 100#32 60#32 1#32 0x1A#32) State.reset 0x00#8 ∧
      fmt? 0x1A#32 = some ⟨0x1A, 32, false⟩ ∧ tmOf (mw 8 1 0).tileMode = some .tiled2BThin1 :=
  ⟨⟨_, rfl, rfl, by decide⟩, by decide, by decide⟩

/-- An offset that fits and one that does not. -/
theorem witness_AddrlinAnswersTheLinearOffset :
    ((mw 31 0 255).rsv = 0#3 ∧ (mw 31 0 255).bpp ≠ 0#8) ∧
    answers (.addrlin (mw 31 0 255) (coord 5 3 0 64 64)) State.reset 0x00#8 ∧
    answers (.addrlin (mw 31 0 255) (coord 0 0 0xFFFFFFFF 0xFFFFFFFF 0xFFFFFFFF)) State.reset 0x08#8 :=
  ⟨by decide, ⟨_, rfl, rfl, by decide⟩, ⟨_, rfl, rfl, by decide⟩⟩

theorem witness_PixidxAnswersThePermutedBits :
    ∀ m ∈ [mw 0 0 8, mw 16 0 16, mw 3 0 64, mw 2 0 128, mw 2 0 255],
      m.rsv = 0#3 ∧ m.tileMode.toNat ≤ 16 ∧ m.bpp ≠ 0#8 := by decide

theorem witness_AddrmicAnswersTheMicroTiledOffset :
    (∀ m ∈ [mw 2 0 8, mw 3 0 255], m.rsv = 0#3 ∧ (m.tileMode = 2#5 ∨ m.tileMode = 3#5) ∧ m.bpp ≠ 0#8) ∧
    answers (.addrmic (mw 2 0 8) (coord 5 3 0 64 64)) State.reset 0x00#8 ∧
    answers (.addrmic (mw 3 0 255) (coord 0 0 0xFFFFFFFF 0xFFFFFFFF 0xFFFFFFFF)) State.reset 0x08#8 :=
  ⟨by decide, ⟨_, rfl, rfl, by decide⟩, ⟨_, rfl, rfl, by decide⟩⟩

/-- The ends of the macro modes, one of them bank-swapped. -/
theorem witness_PipebankAnswersPipeAndBank :
    ∀ p ∈ [(mw 4 1 1, TileMode.tiled2DThin1), (mw 15 1 255, .tiled3BThick)],
      p.1.rsv = 0#3 ∧ 4 ≤ p.1.tileMode.toNat ∧ p.1.tileMode.toNat ≤ 15 ∧ tmOf p.1.tileMode = some p.2 ∧
        p.1.sampleCount = 1#4 ∧ p.1.bpp ≠ 0#8 ∧ (coord 0 0 0 1 0).pitch ≠ 0#32 ∧ (coord 0 0 0 1 0).sample = 0#32 := by decide

theorem witness_AddrmacAnswersTheMacroTiledOffset :
    answers (.addrmac (mw 4 1 1) (coord 0 0 0 1 0)) State.reset 0x00#8 ∧
    answers (.addrmac (mw 15 1 255) (coord 0 0 0xFFFFFFFF 0xFFFFFFFF 0xFFFFFFFF)) State.reset 0x08#8 :=
  ⟨⟨_, rfl, rfl, by decide⟩, ⟨_, rfl, rfl, by decide⟩⟩

theorem witness_PipeAndBankStayInRange : profile.wf = true ∧ ({ profile with numBanks := 8, numBankBits := 3 }).wf = true := by
  decide

theorem witness_InterleaveIsASumOfFields : profile.wf = true ∧ 1 < profile.numPipes ∧ 3 < profile.numBanks := by decide

theorem witness_LinearSpansTileTheSurface : 8 ≤ 8 ∧ 248 % 8 = 0 ∧ 2 < 3 ∧ 1 < 2 ∧ 4 < 5 ∧ ¬ (2 = 0 ∧ 1 = 1 ∧ 4 = 4) := by
  decide

theorem witness_MicroTiledSpansTileTheSurface :
    (8 ≤ 8 ∧ 8 % 8 = 0 ∧ 16 % 8 = 0 ∧ 4 % tmThickness .tiled1DThick = 0 ∧ 4 % tmThickness .tiled1DThin1 = 0) ∧
      15 < 16 ∧ 7 < 8 ∧ 3 < 4 ∧ ¬ (15 = 0 ∧ 7 = 0 ∧ 3 = 0) := by decide

theorem witness_MacroTiledSpansAreDisjoint :
    tmMacro .tiled3BThick = true ∧ 128 ∈ [8, 16, 32, 64, 128] ∧ 64 % (macroTileDims profile .tiled3BThick).1 = 0 ∧
      32 % (macroTileDims profile .tiled3BThick).2 = 0 ∧ 63 < 64 ∧ 31 < 32 ∧ ¬ (63 = 0 ∧ 31 = 0) := by decide

/-- Good operands of SWZ and DSWZ, for an image whose linear buffer is one byte short. -/
theorem good_image : operandsGood (.swz (mw 0 0 8) (image 2 2 3 4)) ∧ operandsGood (.dswz (mw 0 0 8) (image 2 2 3 4)) := by
  simp [operandsGood, causes, badMode, buffersBad, mw, image]

theorem witness_SwzCopiesLinearToTiled :
    operandsGood (.swz (mw 0 0 8) (image 2 2 3 4)) ∧ tmOf (mw 0 0 8).tileMode = some .linearGeneral ∧
    quiet (withMem [(0x10, 1#8)]) ∧ memWf (withMem [(0x10, 1#8)]).mem = true ∧
    elemCovers .toTiled (jobOf (mw 0 0 8) .linearGeneral (image 2 2 3 4)) 2 0x22 ∧
    ¬ elemCovers .toTiled (jobOf (mw 0 0 8) .linearGeneral (image 2 2 3 4)) 3 0x23 :=
  ⟨good_image.1, rfl, ⟨rfl, rfl⟩, by decide, by unfold elemCovers; decide, by unfold elemCovers; decide⟩

theorem witness_DswzCopiesTiledToLinear :
    operandsGood (.dswz (mw 0 0 8) (image 2 2 3 4)) ∧ tmOf (mw 0 0 8).tileMode = some .linearGeneral ∧
    quiet (withMem [(0x20, 1#8)]) ∧ memWf (withMem [(0x20, 1#8)]).mem = true ∧
    elemCovers .toLinear (jobOf (mw 0 0 8) .linearGeneral (image 2 2 3 4)) 2 0x12 :=
  ⟨good_image.2, rfl, ⟨rfl, rfl⟩, by decide, by unfold elemCovers; decide⟩

theorem witness_SwzElementsLieWhereTheFormulasSay :
    tmOf (mw 16 0 8).tileMode = some .linearSpecial ∧ tmOf (mw 3 0 8).tileMode = some .tiled1DThick ∧
      tmOf (mw 15 0 8).tileMode = some .tiled3BThick := by decide

/-- A host that writes and reads a byte of the buffers while the command runs. -/
theorem witness_SwzAndDswzCompleteBesideTheHost :
    operandsGood (.swz (mw 0 0 8) (image 2 2 3 4)) ∧ operandsGood (.dswz (mw 0 0 8) (image 2 2 3 4)) ∧
    tmOf (mw 0 0 8).tileMode = some .linearGeneral ∧
    (inSwz [[.write 0x10#32 5#8, .read 0x20#32]]).resetIn = false ∧
    noReset (inSwz [[.write 0x10#32 5#8, .read 0x20#32]]).hostTurns ∧
    memWf (inSwz [[.write 0x10#32 5#8, .read 0x20#32]]).mem = true :=
  ⟨good_image.1, good_image.2, rfl, rfl, by simp [noReset, inSwz], by decide⟩

/-- RESET before the first byte access, and before the last of the six. -/
theorem witness_ResetCutsTheLoopAfterAPrefix :
    operandsGood (.swz (mw 0 0 8) (image 2 2 3 4)) ∧ operandsGood (.dswz (mw 0 0 8) (image 2 2 3 4)) ∧
    tmOf (mw 0 0 8).tileMode = some .linearGeneral ∧
    (∀ n, (inSwz (List.replicate n [] ++ [HostAct.assertReset] :: [])).hostTurns =
      List.replicate n [] ++ [HostAct.assertReset] :: []) ∧
    (inSwz []).resetIn = false ∧
    (loopAccesses .toTiled (jobOf (mw 0 0 8) .linearGeneral (image 2 2 3 4))).length = 6 ∧
    (loopAccesses .toLinear (jobOf (mw 0 0 8) .linearGeneral (image 2 2 3 4))).length = 6 ∧
    memWf (inSwz []).mem = true :=
  ⟨good_image.1, good_image.2, rfl, fun _ => rfl, rfl, by decide, by decide, by decide⟩

/-- Another linear buffer at 0x30. -/
theorem witness_DeswizzleUndoesSwizzle :
    operandsGood (.swz (mw 0 0 8) (image 2 2 3 4)) ∧
    operandsGood (.dswz (mw 0 0 8) { image 2 2 3 4 with linBase := 0x30#32 }) ∧
    tmOf (mw 0 0 8).tileMode = some .linearGeneral ∧ quiet (withMem [(0x10, 1#8)]) ∧
    memWf (withMem [(0x10, 1#8)]).mem = true ∧
    (∀ k k' b, elemCovers .toTiled (jobOf (mw 0 0 8) .linearGeneral (image 2 2 3 4)) k b →
      elemCovers .toTiled (jobOf (mw 0 0 8) .linearGeneral (image 2 2 3 4)) k' b → k = k') ∧
    ∃ u v, exec (.swz (mw 0 0 8) (image 2 2 3 4)) (withMem [(0x10, 1#8)]) = .next u ∧
      exec (.dswz (mw 0 0 8) { image 2 2 3 4 with linBase := 0x30#32 }) u = .next v := by
  refine ⟨good_image.1, by simp [operandsGood, causes, badMode, buffersBad, mw, image], rfl, ⟨rfl, rfl⟩, by decide, ?_,
    _, _, rfl, rfl⟩
  rintro k k' b ⟨hk, -, hl, hu⟩ ⟨hk', -, hl', hu'⟩
  have h4 : (jobOf (mw 0 0 8) .linearGeneral (image 2 2 3 4)).wI * (jobOf (mw 0 0 8) .linearGeneral (image 2 2 3 4)).hI = 4 := rfl
  have hn : (jobOf (mw 0 0 8) .linearGeneral (image 2 2 3 4)).n = 1 := rfl
  rw [h4] at hk hk'
  rw [hn] at hu hu'
  have hd : ∀ k < 4, elemDst .toTiled (jobOf (mw 0 0 8) .linearGeneral (image 2 2 3 4)) k = 0x20 + k := by decide
  rw [hd k hk] at hl hu
  rw [hd k' hk'] at hl' hu'
  omega

theorem witness_RoundingHelpersAreLeast : 5 ≤ 2 ^ 3 ∧ 1 ≤ 3 ∧ 3 ∣ 6 ∧ 5 ≤ 6 := by decide

theorem witness_CanonicalMemoryIsUnique : memWf [(3, 1#8), (0xFFFFFFFF, 2#8)] = true := by decide

end Sys2Proof.Tests
end

/-! SUPPORT. The proofs of the statements of spec/00_scope.md: the rounding helpers (R10), what the commands without memory
access leave alone, and that results depend on the packet and the two buffers alone (R14). -/

namespace Sys2Proof.Machine

open Sys2Proof

/-! ### The rounding helpers (R10) -/

/-- The exponent of `nextPow2` is the library's ceiling logarithm. -/
theorem nextPow2_eq_two_pow_clog (v : Nat) : nextPow2 v = 2 ^ Nat.clog 2 v := by
  unfold nextPow2
  split
  · next hv => rw [Nat.clog_of_right_le_one hv, pow_zero]
  · next hv =>
    have hlow : 2 ^ Nat.log 2 (v - 1) < v := by
      have := Nat.pow_log_le_self 2 (show v - 1 ≠ 0 by omega)
      omega
    have hhigh : v ≤ 2 ^ (Nat.log 2 (v - 1) + 1) := by
      have := Nat.lt_pow_succ_log_self one_lt_two (v - 1)
      rw [Nat.succ_eq_add_one] at this
      omega
    rw [Nat.log2_eq_log_two]
    exact congrArg _ (le_antisymm ((Nat.lt_clog_iff_pow_lt one_lt_two).2 hlow) (Nat.clog_le_of_le_pow hhigh))

theorem le_nextPow2 (v : Nat) : v ≤ nextPow2 v := by
  rw [nextPow2_eq_two_pow_clog]
  exact Nat.le_pow_clog one_lt_two v

theorem nextPow2_le_two_pow (v k : Nat) (h : v ≤ 2 ^ k) : nextPow2 v ≤ 2 ^ k := by
  rw [nextPow2_eq_two_pow_clog]
  exact Nat.pow_le_pow_right two_pos (Nat.clog_le_of_le_pow h)

/-- `ceilDiv` is the library's ceiling division, so it is the least factor that reaches `v`. -/
theorem ceilDiv_le_iff (v a c : Nat) (ha : 1 ≤ a) : ceilDiv v a ≤ c ↔ v ≤ a * c :=
  ceilDiv_le_iff_le_mul ha

theorem dvd_alignUp (v a : Nat) : a ∣ alignUp v a := Dvd.intro_left _ rfl

theorem le_alignUp (v a : Nat) (ha : 1 ≤ a) : v ≤ alignUp v a := by
  rw [alignUp, Nat.mul_comm]
  exact (ceilDiv_le_iff v a _ ha).1 le_rfl

theorem alignUp_le_of_dvd (v a w : Nat) (ha : 1 ≤ a) (hdvd : a ∣ w) (hvw : v ≤ w) : alignUp v a ≤ w := by
  obtain ⟨c, rfl⟩ := hdvd
  rw [alignUp, Nat.mul_comm]
  exact Nat.mul_le_mul_left a ((ceilDiv_le_iff v a c ha).2 hvw)

/-- Settles O55: both helpers are the library's ceilings, `Nat.clog` and `⌈/⌉`. -/
theorem roundingHelpersAreLeast : Obligations.RoundingHelpersAreLeast := by
  refine ⟨fun v => ⟨⟨_, nextPow2_eq_two_pow_clog v⟩, le_nextPow2 v, nextPow2_le_two_pow v⟩, ⟨rfl, rfl⟩, fun v a ha => ?_⟩
  exact ⟨rfl, dvd_alignUp v a, le_alignUp v a ha, fun w => alignUp_le_of_dvd v a w ha⟩

/-! ### The commands without memory access -/

/-- The frame of `answer`: PHASE and the response alone change. -/
theorem answer_frame (op : Op) (r : Except Status (List Word)) (s : State) :
    answer op r s = { s with phase := .send, rsp := (answer op r s).rsp, rspQ := (answer op r s).rspQ } := by
  cases r <;> rfl

/-- The response of `answer` is a function of the command's result. -/
theorem answer_rsp_eq (op : Op) (r : Except Status (List Word)) (s s' : State) :
    (answer op r s).rsp = (answer op r s').rsp := by
  cases r <;> rfl

/-- Settles O22: all thirteen commands end with `answer`. -/
theorem otherCommandsChangeTheResponseOnly : Obligations.OtherCommandsChangeTheResponseOnly := by
  intro i s t hswz hdswz h
  obtain ⟨r, hr⟩ := exec_answer i ⟨hswz, hdswz⟩
  rw [hr] at h
  cases h
  exact answer_frame i.op r s

/-! ### SWZ and DSWZ with a quiet host -/

theorem exec_swz (m : MWord) (a : SwzArgs) (s : State) : exec (.swz m a) s = .next (runSwz .swz .toTiled m a s) := rfl

theorem exec_dswz (m : MWord) (a : SwzArgs) (s : State) :
    exec (.dswz m a) s = .next (runSwz .dswz .toLinear m a s) := rfl

/-- The two shapes of a command's meaning: `answer` with a result that is a function of the operands, or the loop of SWZ and
DSWZ. -/
theorem exec_shape (i : Instr) :
    (∃ r, ∀ s, exec i s = .next (answer i.op r s)) ∨ ∃ d m a, ∀ s, exec i s = .next (runSwz i.op d m a s) := by
  cases i with
  | swz m a => exact .inr ⟨_, _, _, exec_swz m a⟩
  | dswz m a => exact .inr ⟨_, _, _, exec_dswz m a⟩
  | _ => exact .inl (exec_answer _ ⟨nofun, nofun⟩)

/-- A SWZ or DSWZ whose checks fail raises the exception. -/
theorem runSwz_of_error (op : Op) (d : Dir) (m : MWord) (a : SwzArgs) (c : Status) (s : State)
    (hc : swzChecks m a = .error c) : runSwz op d m a s = raise op.code c s := by
  simp only [runSwz, hc]

/-- The state in which a quiet host finds the loop ended: every element has had its turn. -/
def loopEnd (d : Dir) (j : Job) (s : State) : State := (quietElement profile d j)^[j.wI * j.hI] (startLoop s)

/-- With a quiet host a SWZ or DSWZ whose checks pass runs to its end. -/
theorem runSwz_of_quiet (op : Op) (d : Dir) (m : MWord) (a : SwzArgs) (j : Job) (s : State) (hq : quiet s)
    (hj : swzChecks m a = .ok j) : runSwz op d m a s = finishSwz op (loopEnd d j s) := by
  have hloop := elements_quiet profile d j (j.wI * j.hI) (startLoop s) ⟨hq.1, hq.2⟩
  simp only [runSwz, hj, hloop, loopEnd]

theorem finishSwz_rsp (op : Op) (s : State) :
    (finishSwz op s).rsp =
      { opc := op.code, flags := btsFlags s.loop.skipped, status := statusOk, words := counterWords s.loop } := rfl

@[simp] theorem finishSwz_mem (op : Op) (s : State) : (finishSwz op s).mem = s.mem := rfl

/-! ### The loop state -/

/-- What one element makes of the loop state; the memory is not asked (R194, R196). -/
def elementLoop (hw : Config.Profile) (j : Job) (l : Loop) : Loop :=
  if inBounds hw j l.x l.y then advance j { l with copied := l.copied + 1#64 }
  else advance j { l with skipped := l.skipped + 1#64 }

theorem quietElement_loop (hw : Config.Profile) (d : Dir) (j : Job) (s : State) :
    (quietElement hw d j s).loop = elementLoop hw j s.loop := by
  unfold quietElement elementLoop
  split <;> rfl

/-- The loop state at the end is a function of the operands: the loop runs on it alone, from `startLoop`. -/
theorem loopEnd_loop (d : Dir) (j : Job) (s : State) :
    (loopEnd d j s).loop = (elementLoop profile j)^[j.wI * j.hI] { x := 0, y := 0, copied := 0#64, skipped := 0#64 } := by
  have hsemi : Function.Semiconj State.loop (quietElement profile d j) (elementLoop profile j) :=
    quietElement_loop profile d j
  exact hsemi.iterate_right (j.wI * j.hI) (startLoop s)

/-- With a quiet host the response of SWZ and DSWZ is a function of the packet: RSP holds the counters of the loop. -/
theorem runSwz_rsp_eq (op : Op) (d : Dir) (m : MWord) (a : SwzArgs) (s s' : State) (hq : quiet s) (hq' : quiet s') :
    (runSwz op d m a s).rsp = (runSwz op d m a s').rsp := by
  cases hc : swzChecks m a with
  | error c => rw [runSwz_of_error op d m a c s hc, runSwz_of_error op d m a c s' hc, raise_rsp, raise_rsp]
  | ok j =>
    rw [runSwz_of_quiet op d m a j s hq hc, runSwz_of_quiet op d m a j s' hq' hc, finishSwz_rsp, finishSwz_rsp,
      loopEnd_loop, loopEnd_loop]

/-! ### The two buffers -/

/-- Address `b` lies in the linear or in the tiled buffer. -/
def InBuffers (j : Job) (b : Nat) : Prop :=
  (j.linBase ≤ b ∧ b < j.linBase + j.linLen) ∨ (j.tiledBase ≤ b ∧ b < j.tiledBase + j.tiledLen)

/-- Both buffers end at or below the top of memory (R192). -/
def BuffersFit (j : Job) : Prop := j.linBase + j.linLen ≤ memSize ∧ j.tiledBase + j.tiledLen ≤ memSize

theorem buffersFit_of_swzChecks (m : MWord) (a : SwzArgs) (j : Job) (h : swzChecks m a = .ok j) : BuffersFit j := by
  obtain ⟨t, -, rfl, -, -, -, -, -, -, hbuf⟩ := swzChecks_ok m a j h
  obtain ⟨hlin, htiled, -⟩ := badBuffers_false a hbuf
  exact ⟨hlin, htiled⟩

/-- What `InBounds` says (R194): the element's span lies inside either buffer. -/
theorem inBounds_iff (hw : Config.Profile) (j : Job) (x y : Nat) :
    inBounds hw j x y = true ↔ linearOffset j x y + j.n ≤ j.linLen ∧ tiledOffset hw j x y + j.n ≤ j.tiledLen := by
  simp only [inBounds, Bool.and_eq_true, decide_eq_true_eq]

/-- An element in bounds is read from the buffers. -/
theorem inBuffers_srcAddr (hw : Config.Profile) (d : Dir) (j : Job) (x y b : Nat) (hin : inBounds hw j x y = true)
    (hlo : srcAddr hw d j x y ≤ b) (hhi : b < srcAddr hw d j x y + j.n) : InBuffers j b := by
  obtain ⟨hlin, htiled⟩ := (inBounds_iff hw j x y).1 hin
  cases d with
  | toTiled => simp only [srcAddr] at hlo hhi; exact .inl (by omega)
  | toLinear => simp only [srcAddr] at hlo hhi; exact .inr (by omega)

/-- An element in bounds is written below the top of memory. -/
theorem dstAddr_add_le_memSize (hw : Config.Profile) (d : Dir) (j : Job) (x y : Nat) (hfit : BuffersFit j)
    (hin : inBounds hw j x y = true) : dstAddr hw d j x y + j.n ≤ memSize := by
  obtain ⟨hlin, htiled⟩ := (inBounds_iff hw j x y).1 hin
  obtain ⟨hlinFit, htiledFit⟩ := hfit
  cases d with
  | toTiled => simp only [dstAddr]; omega
  | toLinear => simp only [dstAddr]; omega

/-! ### Two runs side by side -/

/-- Two memories in canonical form that agree on the two buffers. -/
structure AgreeOnBuffers (j : Job) (m m' : Memory) : Prop where
  wf : memWf m = true
  wf' : memWf m' = true
  agree : ∀ b, InBuffers j b → memGet m b = memGet m' b

/-- Spans are equal where the memories agree. -/
theorem memGetSpan_congr (m m' : Memory) (a n : Nat) (h : ∀ b, a ≤ b → b < a + n → memGet m b = memGet m' b) :
    memGetSpan m a n = memGetSpan m' a n := by
  induction n generalizing a with
  | zero => rfl
  | succ n ih =>
    rw [memGetSpan, memGetSpan, h a le_rfl (by omega), ih (a + 1) fun b hlo hhi => h b (by omega) (by omega)]

/-- The same bytes stored at the same place leave memories that agree as before. -/
theorem agreeOnBuffers_memSetSpan (j : Job) (m m' : Memory) (a : Nat) (bs : List Byte) (h : AgreeOnBuffers j m m')
    (ha : a + bs.length ≤ memSize) : AgreeOnBuffers j (memSetSpan m a bs) (memSetSpan m' a bs) where
  wf := memWf_memSetSpan m a bs ha h.wf
  wf' := memWf_memSetSpan m' a bs ha h.wf'
  agree b hb := by rw [memGet_memSetSpan m a b bs ha h.wf, memGet_memSetSpan m' a b bs ha h.wf', h.agree b hb]

/-- Two states of the loop at the same element, whose memories agree on the buffers. -/
structure InStep (j : Job) (s s' : State) : Prop where
  loop : s.loop = s'.loop
  mem : AgreeOnBuffers j s.mem s'.mem

theorem quietElement_mem (hw : Config.Profile) (d : Dir) (j : Job) (s : State) :
    (quietElement hw d j s).mem =
      if inBounds hw j s.loop.x s.loop.y then
        memSetSpan s.mem (dstAddr hw d j s.loop.x s.loop.y)
          (memGetSpan s.mem (srcAddr hw d j s.loop.x s.loop.y) j.n)
      else s.mem := by
  unfold quietElement
  split <;> rfl

/-- One element keeps two runs in step: both read the same bytes and store them at the same place. -/
theorem inStep_quietElement (hw : Config.Profile) (d : Dir) (j : Job) (s s' : State) (hfit : BuffersFit j)
    (h : InStep j s s') : InStep j (quietElement hw d j s) (quietElement hw d j s') where
  loop := by rw [quietElement_loop, quietElement_loop, h.loop]
  mem := by
    rw [quietElement_mem, quietElement_mem, ← h.loop]
    split
    · next hin =>
      have hsame := memGetSpan_congr s.mem s'.mem (srcAddr hw d j s.loop.x s.loop.y) j.n
        fun b hlo hhi => h.mem.agree b (inBuffers_srcAddr hw d j _ _ b hin hlo hhi)
      rw [← hsame]
      exact agreeOnBuffers_memSetSpan j _ _ _ _ h.mem (by simpa using dstAddr_add_le_memSize hw d j _ _ hfit hin)
    · exact h.mem

/-- The whole loop keeps two runs in step. -/
theorem inStep_loopEnd (d : Dir) (j : Job) (s s' : State) (hfit : BuffersFit j) (h : AgreeOnBuffers j s.mem s'.mem) :
    InStep j (loopEnd d j s) (loopEnd d j s') := by
  have key : ∀ (k : Nat) (u u' : State), InStep j u u' →
      InStep j ((quietElement profile d j)^[k] u) ((quietElement profile d j)^[k] u') := by
    intro k
    induction k with
    | zero => exact fun _ _ hu => hu
    | succ k ih => exact fun _ _ hu => ih _ _ (inStep_quietElement profile d j _ _ hfit hu)
  exact key _ _ _ ⟨rfl, h⟩

/-! ### Results depend on the packet and the two buffers alone -/

/-- The two buffers as the operands name them. -/
def InOperandBuffers (a : SwzArgs) (b : Nat) : Prop :=
  (a.linBase.toNat ≤ b ∧ b < a.linBase.toNat + a.linLen.toNat) ∨
    (a.tiledBase.toNat ≤ b ∧ b < a.tiledBase.toNat + a.tiledLen.toNat)

/-- The loop works on the buffers the operands name. -/
theorem inBuffers_iff_inOperandBuffers (m : MWord) (a : SwzArgs) (j : Job) (b : Nat) (h : swzChecks m a = .ok j) :
    InBuffers j b ↔ InOperandBuffers a b := by
  obtain ⟨t, -, rfl, -⟩ := swzChecks_ok m a j h
  rfl

/-- With a quiet host SWZ and DSWZ leave memories that agree on the two buffers when they did so before: an exception
changes neither, and the loop keeps the two runs in step. -/
theorem runSwz_mem_congr (op : Op) (d : Dir) (m : MWord) (a : SwzArgs) (s s' : State) (hq : quiet s) (hq' : quiet s')
    (hwf : memWf s.mem = true) (hwf' : memWf s'.mem = true)
    (hagree : ∀ b, InOperandBuffers a b → memGet s.mem b = memGet s'.mem b) (b : Nat) (hb : InOperandBuffers a b) :
    memGet (runSwz op d m a s).mem b = memGet (runSwz op d m a s').mem b := by
  cases hc : swzChecks m a with
  | error c =>
    rw [runSwz_of_error op d m a c s hc, runSwz_of_error op d m a c s' hc, raise_mem, raise_mem]
    exact hagree b hb
  | ok j =>
    have hbuf := fun b => inBuffers_iff_inOperandBuffers m a j b hc
    have hends := inStep_loopEnd d j s s' (buffersFit_of_swzChecks m a j hc)
      ⟨hwf, hwf', fun b hb => hagree b ((hbuf b).1 hb)⟩
    rw [runSwz_of_quiet op d m a j s hq hc, runSwz_of_quiet op d m a j s' hq' hc, finishSwz_mem, finishSwz_mem]
    exact hends.mem.agree b ((hbuf b).2 hb)

/-- R14's first half: with a quiet host the response is a function of the packet. -/
theorem exec_rsp_eq (i : Instr) (s s' t t' : State) (hq : quiet s) (hq' : quiet s') (h : exec i s = .next t)
    (h' : exec i s' = .next t') : t.rsp = t'.rsp := by
  obtain ⟨r, hexec⟩ | ⟨d, m, a, hexec⟩ := exec_shape i
  · rw [hexec] at h h'
    cases h
    cases h'
    exact answer_rsp_eq i.op r s s'
  · rw [hexec] at h h'
    cases h
    cases h'
    exact runSwz_rsp_eq i.op d m a s s' hq hq'

/-- Settles O26: the response by `exec_rsp_eq`, the buffers by running the two loops in step. -/
theorem resultsDependOnPacketAndBuffersAlone : Obligations.ResultsDependOnPacketAndBuffersAlone := by
  refine ⟨exec_rsp_eq, fun i m a s s' t t' hi hq hq' hwf hwf' hagree h h' => ?_⟩
  rcases hi with rfl | rfl
  · cases h
    cases h'
    exact runSwz_mem_congr .swz .toTiled m a s s' hq hq' hwf hwf' hagree
  · cases h
    cases h'
    exact runSwz_mem_congr .dswz .toLinear m a s s' hq hq' hwf hwf' hagree

end Sys2Proof.Machine

/-! SUPPORT. The proofs of the statements of spec/10_state.md: the reset state (R31), the invariant and the transitions
of PHASE (R25, R26), how a packet reaches EXEC (R24, R60), and that REQ stays and the loop state is not read (R24, R27). -/

namespace Sys2Proof

/-! ### What a packet leaves in REQ -/

/-- Only the header writes the opcode of REQ. -/
@[simp] theorem Req.latch_opc (op : Op) (k : Nat) (w : Word) (r : Req) : (r.latch op k w).opc = r.opc := by
  unfold Req.latch
  split <;> simp only [apply_ite Req.opc, ite_self]

@[simp] theorem Req.latchAll_opc (op : Op) (k : Nat) (ws : List Word) (r : Req) :
    (Req.latchAll op k ws r).opc = r.opc := by
  induction ws generalizing k r with
  | nil => rfl
  | cons w ws ih => rw [Req.latchAll, ih, Req.latch_opc]

@[simp] theorem Req.latchHeader_opc (op : Op) (r : Req) : (r.latchHeader op).opc = op.code := rfl

@[simp] theorem Req.op_instrOf (r : Req) (op : Op) : (r.instrOf op).op = op := by cases op <;> rfl

/-- REQ after the operand words of format A (R64). -/
theorem Req.latchAll_formatA (op : Op) (hop : op.format = .A) (m x y slice sample pitch height depth : Word) (r : Req) :
    Req.latchAll op 1 [m, x, y, slice, sample, pitch, height, depth] r =
      { r with
        m := MWord.ofWord m, x := x, y := y, slice := slice, sample := sample, pitch := pitch, surfHeight := height
        surfDepth := depth } := by
  simp only [Req.latchAll, Req.latch, hop]

/-- REQ after the operand words of format S (R65). -/
theorem Req.latchAll_formatS (op : Op) (hop : op.format = .S)
    (m width height pitch surfHeight surfDepth swizzle linBase linLen tiledBase tiledLen : Word) (r : Req) :
    Req.latchAll op 1
        [m, width, height, pitch, surfHeight, surfDepth, swizzle, linBase, linLen, tiledBase, tiledLen] r =
      { r with
        m := MWord.ofWord m, width := width, height := height, pitch := pitch, surfHeight := surfHeight
        surfDepth := surfDepth, swizzleValue := swizzle, linBase := linBase, linLen := linLen, tiledBase := tiledBase
        tiledLen := tiledLen } := by
  simp only [Req.latchAll, Req.latch, hop]

/-- A whole packet overwrites every field its command reads: what REQ held before has no influence (R24). -/
theorem Req.instrOf_latchAll (op : Op) (ws : List Word) (r r' : Req) (h : ws.length = op.format.operandWords) :
    (Req.latchAll op 1 ws r).instrOf op = (Req.latchAll op 1 ws r').instrOf op := by
  cases op with
  | rdprof => rfl
  | fmtinfo | tmprop | mtgeom | align => match ws, h with | [_], _ => rfl
  | bswidth => match ws, h with | [_, _], _ => rfl
  | tmresolve | pixidx => match ws, h with | [_, _, _, _], _ => rfl
  | surfinfo => match ws, h with | [_, _, _, _, _], _ => rfl
  | addrlin | addrmic | pipebank | addrmac =>
    replace h : ws.length = 8 := h
    match ws, h with
    | [_, _, _, _, _, _, _, _], _ => rw [latchAll_formatA _ rfl, latchAll_formatA _ rfl]; rfl
  | swz | dswz =>
    replace h : ws.length = 11 := h
    match ws, h with
    | [_, _, _, _, _, _, _, _, _, _, _], _ => rw [latchAll_formatS _ rfl, latchAll_formatS _ rfl]; rfl

/-- What a packet that decodes looks like: a legal header, at least the operand words its format owes, and the command
latched from them. -/
theorem decode_ok (ws rest : List Word) (i : Instr) (h : decode ws = .ok (i, rest)) :
    ∃ hd tl op, ws = hd :: tl ∧ Op.ofHeader hd = some op ∧ op.format.operandWords ≤ tl.length ∧
      i = (Req.latchAll op 1 (tl.take op.format.operandWords) (Req.zero.latchHeader op)).instrOf op ∧
      rest = tl.drop op.format.operandWords := by
  cases ws with
  | nil => cases h
  | cons hd tl =>
    simp only [decode] at h
    split at h
    · cases h
    · next op hop =>
      split at h
      · cases h
      · next hlen =>
        cases h
        exact ⟨hd, tl, op, rfl, hop, by omega, rfl, rfl⟩

end Sys2Proof

namespace Sys2Proof.Machine

open Sys2Proof

/-! ### The reset state -/

/-- Settles O1: by the definition of the reset state. -/
theorem resetStateIsIdleWithNothingPending : Obligations.ResetStateIsIdleWithNothingPending := ⟨rfl, rfl⟩

/-- Settles O2: the memory is empty, RSP has no result word, and nothing is owed or pending in IDLE. -/
theorem resetStateMeetsInvariant : Obligations.ResetStateMeetsInvariant := ⟨memWf_reset, Nat.zero_le 11, rfl, rfl⟩

/-! ### One step by PHASE -/

theorem step_of_idle (s : State) (hr : s.resetIn = false) (hp : s.phase = .idle) : step s = .next (takeHeader s) := by
  simp [step, hr, hp]

theorem step_of_recv (s : State) (op : Op) (hr : s.resetIn = false) (hp : s.phase = .recv)
    (hop : Op.ofCode s.req.opc = some op) : step s = .next (takeOperand op s) := by
  simp [step, hr, hp, hop]

theorem step_of_exec (s : State) (op : Op) (hr : s.resetIn = false) (hp : s.phase = .exec)
    (hop : Op.ofCode s.req.opc = some op) : step s = exec (s.req.instrOf op) s := by
  simp [step, hr, hp, Req.instr?, hop]

theorem step_of_send (s : State) (hr : s.resetIn = false) (hp : s.phase = .send) : step s = .next (drain s) := by
  simp [step, hr, hp]

/-- A run goes on from the state its first step answers. -/
theorem run_succ_of_step (s t : State) (k : Nat) (h : step s = .next t) :
    Host.Core.run Sys2Proof.core (k + 1) s = Host.Core.run Sys2Proof.core k t := by
  have hstep : Sys2Proof.core.step s = .next t := h
  simp only [Host.Core.run, hstep]

/-! ### The results of the commands without memory access -/

/-- Every exception of the result is one of `codes`, and what it holds otherwise is as `P` says. -/
def Checked {α : Type} (codes : List (BitVec 8)) (P : α → Prop) : Except Status α → Prop
  | .error c => c.code ∈ codes
  | .ok v => P v

/-- One check more in front of a checked result. -/
theorem checked_ite {α : Type} {codes : List (BitVec 8)} {P : α → Prop} {c : Status} {p : Prop} [Decidable p]
    {r : Except Status α} (hc : c.code ∈ codes) (hr : Checked codes P r) :
    Checked codes P (if p then .error c else r) := by
  split
  · exact hc
  · exact hr

/-- The result words of a command, or an exception, as R67 and the exception matrix of R218 allow them. -/
abbrev LegalResult (op : Op) (r : Except Status (List Word)) : Prop :=
  Checked (matrixRow op) (fun ws => ws.length = resultCount op) r

theorem legalResult_fmtinfo (c : Word) : LegalResult .fmtinfo (fmtinfoResult c) := by
  unfold fmtinfoResult
  split
  · exact (by decide : Status.unsupportedFormat.code ∈ matrixRow .fmtinfo)
  · rfl

theorem legalResult_tmprop (m : MWord) : LegalResult .tmprop (tmpropResult m) := by
  unfold tmpropResult
  refine checked_ite (by decide) ?_
  split
  · exact (by decide : Status.unsupportedTileMode.code ∈ matrixRow .tmprop)
  · rfl

theorem legalResult_tmresolve (m : MWord) (w h d : Word) : LegalResult .tmresolve (tmresolveResult m w h d) := by
  unfold tmresolveResult
  refine checked_ite (by decide) ?_
  split
  · exact (by decide : Status.unsupportedTileMode.code ∈ matrixRow .tmresolve)
  · exact checked_ite (by decide) (checked_ite (by decide) rfl)

theorem legalResult_mtgeom (m : MWord) : LegalResult .mtgeom (mtgeomResult m) := by
  unfold mtgeomResult
  refine checked_ite (by decide) ?_
  split
  · exact (by decide : Status.unsupportedTileMode.code ∈ matrixRow .mtgeom)
  · exact checked_ite (by decide) (checked_ite (by decide) rfl)

theorem legalResult_align (m : MWord) : LegalResult .align (alignResult m) := by
  unfold alignResult
  refine checked_ite (by decide) ?_
  split
  · exact (by decide : Status.unsupportedTileMode.code ∈ matrixRow .align)
  · exact checked_ite (by decide) (checked_ite (by decide) rfl)

theorem legalResult_bswidth (m : MWord) (p : Word) : LegalResult .bswidth (bswidthResult m p) := by
  unfold bswidthResult
  refine checked_ite (by decide) ?_
  split
  · exact (by decide : Status.unsupportedTileMode.code ∈ matrixRow .bswidth)
  · exact checked_ite (by decide) (checked_ite (by decide) (checked_ite (by decide) rfl))

theorem legalResult_surfinfo (m : MWord) (w h d c : Word) : LegalResult .surfinfo (surfinfoResult m w h d c) := by
  unfold surfinfoResult
  refine checked_ite (by decide) ?_
  split
  · exact (by decide : Status.unsupportedFormat.code ∈ matrixRow .surfinfo)
  · split
    · exact (by decide : Status.unsupportedTileMode.code ∈ matrixRow .surfinfo)
    · exact checked_ite (by decide) (checked_ite (by decide) (checked_ite (by decide) rfl))

/-- A byte offset is two words, or Overflow, for a command that has Overflow and two result words. -/
theorem legalResult_offset (op : Op) (a : Nat) (hc : Status.overflow.code ∈ matrixRow op) (hn : resultCount op = 2) :
    LegalResult op (offsetResult a) :=
  checked_ite hc hn.symm

theorem legalResult_addrlin (m : MWord) (a : AddrArgs) : LegalResult .addrlin (addrlinResult m a) :=
  checked_ite (by decide) (checked_ite (by decide) (legalResult_offset _ _ (by decide) rfl))

theorem legalResult_pixidx (m : MWord) (x y z : Word) : LegalResult .pixidx (pixidxResult m x y z) := by
  unfold pixidxResult
  refine checked_ite (by decide) ?_
  split
  · exact (by decide : Status.unsupportedTileMode.code ∈ matrixRow .pixidx)
  · exact checked_ite (by decide) rfl

theorem legalResult_addrmic (m : MWord) (a : AddrArgs) : LegalResult .addrmic (addrmicResult m a) := by
  unfold addrmicResult
  refine checked_ite (by decide) ?_
  split
  · exact (by decide : Status.unsupportedTileMode.code ∈ matrixRow .addrmic)
  · exact checked_ite (by decide) (legalResult_offset _ _ (by decide) rfl)

/-- The checks PIPEBANK and ADDRMAC share raise what PIPEBANK's row of the matrix has. -/
theorem checked_macroChecks (m : MWord) (a : AddrArgs) :
    Checked (matrixRow .pipebank) (fun _ => True) (macroChecks m a) := by
  unfold macroChecks
  refine checked_ite (by decide) ?_
  split
  · exact (by decide : Status.unsupportedTileMode.code ∈ matrixRow .pipebank)
  · exact checked_ite (by decide) (checked_ite (by decide) (checked_ite (by decide) trivial))

theorem legalResult_pipebank (m : MWord) (a : AddrArgs) : LegalResult .pipebank (pipebankResult m a) := by
  have hchecks := checked_macroChecks m a
  unfold pipebankResult
  split
  · next c hc => rwa [hc] at hchecks
  · rfl

theorem legalResult_addrmac (m : MWord) (a : AddrArgs) : LegalResult .addrmac (addrmacResult m a) := by
  have hchecks := checked_macroChecks m a
  unfold addrmacResult
  split
  · next c hc =>
    rw [hc] at hchecks
    exact (by decide : matrixRow .pipebank ⊆ matrixRow .addrmac) hchecks
  · exact legalResult_offset _ _ (by decide) rfl

/-- The checks of SWZ and DSWZ raise what their rows of the matrix have. -/
theorem checked_swzChecks (m : MWord) (a : SwzArgs) :
    Checked (matrixRow .swz) (fun _ => True) (swzChecks m a) := by
  unfold swzChecks
  refine checked_ite (by decide) ?_
  split
  · exact (by decide : Status.unsupportedTileMode.code ∈ matrixRow .swz)
  · exact checked_ite (by decide) (checked_ite (by decide) trivial)

/-- Every command but SWZ and DSWZ ends with `answer` of a legal result that its operands fix. -/
theorem exec_answer_legal (i : Instr) (hswz : i.op ≠ .swz) (hdswz : i.op ≠ .dswz) :
    ∃ r, LegalResult i.op r ∧ ∀ s, exec i s = .next (answer i.op r s) := by
  cases i with
  | rdprof => exact ⟨.ok (profileWords profile), rfl, fun _ => rfl⟩
  | fmtinfo c => exact ⟨_, legalResult_fmtinfo c, fun _ => rfl⟩
  | tmprop m => exact ⟨_, legalResult_tmprop m, fun _ => rfl⟩
  | tmresolve m w h d => exact ⟨_, legalResult_tmresolve m w h d, fun _ => rfl⟩
  | mtgeom m => exact ⟨_, legalResult_mtgeom m, fun _ => rfl⟩
  | align m => exact ⟨_, legalResult_align m, fun _ => rfl⟩
  | bswidth m p => exact ⟨_, legalResult_bswidth m p, fun _ => rfl⟩
  | surfinfo m w h d c => exact ⟨_, legalResult_surfinfo m w h d c, fun _ => rfl⟩
  | addrlin m a => exact ⟨_, legalResult_addrlin m a, fun _ => rfl⟩
  | pixidx m x y z => exact ⟨_, legalResult_pixidx m x y z, fun _ => rfl⟩
  | addrmic m a => exact ⟨_, legalResult_addrmic m a, fun _ => rfl⟩
  | pipebank m a => exact ⟨_, legalResult_pipebank m a, fun _ => rfl⟩
  | addrmac m a => exact ⟨_, legalResult_addrmac m a, fun _ => rfl⟩
  | swz m a => exact absurd rfl hswz
  | dswz m a => exact absurd rfl hdswz

/-! ### The frame of a running command -/

/-- `t` is `s` but for the memory, the loop state, the draws of free values, the RESET input and the host's turns and
readings: what a command can change before it responds or is cut off. -/
def CommandFrame (s t : State) : Prop :=
  t = { s with
    mem := t.mem, loop := t.loop, free := t.free, resetIn := t.resetIn, hostTurns := t.hostTurns, hostSaw := t.hostSaw }

theorem CommandFrame.refl (s : State) : CommandFrame s s := rfl

theorem CommandFrame.trans {s t u : State} (h₁ : CommandFrame s t) (h₂ : CommandFrame t u) : CommandFrame s u := by
  unfold CommandFrame at *
  rw [h₂, h₁]

theorem BusOnly.commandFrame {s t : State} (h : BusOnly s t) : CommandFrame s t := by
  unfold BusOnly at h
  unfold CommandFrame
  rw [h]

theorem commandFrame_startLoop (s : State) : CommandFrame s (startLoop s) := rfl

theorem CommandFrame.req {s t : State} (h : CommandFrame s t) : t.req = s.req := by rw [h]

theorem CommandFrame.owed {s t : State} (h : CommandFrame s t) : t.owed = s.owed := by rw [h]

theorem CommandFrame.cmdQ {s t : State} (h : CommandFrame s t) : t.cmdQ = s.cmdQ := by rw [h]

/-- One element stays in the frame, and only RESET cuts it off. -/
theorem commandFrame_oneElement (hw : Config.Profile) (d : Dir) (j : Job) (s : State) :
    (∀ t, oneElement hw d j s = .ok t → CommandFrame s t) ∧
      (∀ t, oneElement hw d j s = .error t → CommandFrame s t ∧ t.resetIn = true) := by
  have hread := busOnly_memRead (srcAddr hw d j s.loop.x s.loop.y) j.n s
  obtain ⟨-, he⟩ | ⟨-, ⟨u, hu, he⟩ | ⟨v, s₁, h₁, ⟨u, hu, he⟩ | ⟨s₂, h₂, he⟩⟩⟩ := oneElement_cases hw d j s <;> rw [he]
  · exact ⟨fun t ht => (by cases ht; rfl), nofun⟩
  · obtain ⟨hbus, hreset⟩ := hread.2 u hu
    exact ⟨nofun, fun t ht => (by cases ht; exact ⟨hbus.commandFrame, hreset⟩)⟩
  · obtain ⟨hbus, hreset⟩ := (busOnly_memWrite _ v s₁).2 u hu
    have hframe := ((hread.1 _ h₁).trans hbus).commandFrame
    exact ⟨nofun, fun t ht => (by cases ht; exact ⟨hframe, hreset⟩)⟩
  · have hframe := ((hread.1 _ h₁).trans ((busOnly_memWrite _ v s₁).1 s₂ h₂)).commandFrame
    exact ⟨fun t ht => (by cases ht; exact hframe.trans rfl), nofun⟩

/-- The whole loop stays in the frame, and only RESET cuts it off. -/
theorem commandFrame_elements (hw : Config.Profile) (d : Dir) (j : Job) (k : Nat) (s : State) :
    (∀ t, elements hw d j k s = .ok t → CommandFrame s t) ∧
      (∀ t, elements hw d j k s = .error t → CommandFrame s t ∧ t.resetIn = true) :=
  elements_induct hw d j (CommandFrame s) (fun t => CommandFrame s t ∧ t.resetIn = true)
    (fun u t hu ht => hu.trans ((commandFrame_oneElement hw d j u).1 t ht))
    (fun u t hu ht => ((commandFrame_oneElement hw d j u).2 t ht).imp_left hu.trans) k s (.refl s)

/-! ### What a command can do -/

/-- RSP after a command: an exception of its row of the matrix, or STATUS OK with the result words R67 lists (R66). -/
def CommandRsp (op : Op) (r : Rsp) : Prop :=
  (r.status ∈ matrixRow op ∧ r.flags = 0x00#8 ∧ r.words = []) ∨
    (r.status = 0x00#8 ∧ (r.flags = 0x00#8 ∨ r.flags = 0x01#8) ∧ r.words.length = resultCount op)

theorem matrixRow_subset_producedStatus (op : Op) : matrixRow op ⊆ producedStatus := by cases op <;> decide

theorem resultCount_le (op : Op) : resultCount op ≤ 11 := by cases op <;> decide

theorem CommandRsp.rspLegal {op : Op} {r : Rsp} (h : CommandRsp op r) : rspLegal r := by
  obtain ⟨hs, hf, hw⟩ | ⟨hs, hf, -⟩ := h
  · exact ⟨matrixRow_subset_producedStatus op hs, .inl hf, fun _ => hw⟩
  · exact ⟨by rw [hs]; decide, hf.imp_right fun hbts => ⟨hbts, hs⟩, fun hne => absurd hs hne⟩

theorem CommandRsp.words_le {op : Op} {r : Rsp} (h : CommandRsp op r) : r.words.length ≤ 11 := by
  obtain ⟨-, -, hw⟩ | ⟨-, -, hw⟩ := h
  · simp [hw]
  · rw [hw]; exact resultCount_le op

theorem btsFlags_cases (v : BitVec 64) : btsFlags v = 0x00#8 ∨ btsFlags v = 0x01#8 := by
  unfold btsFlags
  split
  · exact .inl rfl
  · exact .inr rfl

/-- `t` is what `s` becomes when the command `op` responds. -/
def Responds (op : Op) (s t : State) : Prop :=
  ∃ r u, CommandRsp op r ∧ CommandFrame s u ∧ t = sendRsp r u

/-- `t` is what `s` becomes when RESET cuts the command off (R231). -/
def CutOff (s t : State) : Prop := ∃ u, CommandFrame s u ∧ u.resetIn = true ∧ t = inReset u

theorem responds_answer (op : Op) (r : Except Status (List Word)) (s : State) (h : LegalResult op r) :
    Responds op s (answer op r s) := by
  cases r with
  | error c => exact ⟨⟨op.code, flagsNone, c.code, []⟩, s, .inl ⟨h, rfl, rfl⟩, .refl s, rfl⟩
  | ok ws => exact ⟨⟨op.code, flagsNone, statusOk, ws⟩, s, .inr ⟨rfl, .inl rfl, h⟩, .refl s, rfl⟩

/-- A SWZ or DSWZ responds, or RESET cuts it off. -/
theorem runSwz_responds_or_cutOff (op : Op) (d : Dir) (m : MWord) (a : SwzArgs) (s : State)
    (hop : op = .swz ∨ op = .dswz) :
    Responds op s (runSwz op d m a s) ∨ CutOff s (runSwz op d m a s) := by
  obtain ⟨hrow, hcount⟩ : matrixRow op = matrixRow .swz ∧ resultCount op = 4 := by
    rcases hop with rfl | rfl <;> exact ⟨rfl, rfl⟩
  obtain ⟨c, hc, he⟩ | ⟨j, u, -, hu, he⟩ | ⟨j, u, -, hu, he⟩ := runSwz_cases op d m a s <;> rw [he]
  · have hcode := checked_swzChecks m a
    rw [hc] at hcode
    exact .inl ⟨⟨op.code, flagsNone, c.code, []⟩, s, .inl ⟨hrow ▸ hcode, rfl, rfl⟩, .refl s, rfl⟩
  · obtain ⟨hframe, hreset⟩ := (commandFrame_elements _ _ _ _ _).2 u hu
    exact .inr ⟨u, (commandFrame_startLoop s).trans hframe, hreset, rfl⟩
  · have hframe : CommandFrame s (discardLoop u) :=
      ((commandFrame_startLoop s).trans ((commandFrame_elements _ _ _ _ _).1 u hu)).trans rfl
    exact .inl ⟨⟨op.code, btsFlags u.loop.skipped, statusOk, counterWords u.loop⟩, _,
      .inr ⟨rfl, btsFlags_cases _, hcount.symm⟩, hframe, rfl⟩

/-- SWZ and DSWZ are the loop, whatever the state. -/
theorem exec_runSwz (i : Instr) (h : i.op = .swz ∨ i.op = .dswz) :
    ∃ d m a, ∀ s, exec i s = .next (runSwz i.op d m a s) := by
  cases i with
  | swz m a => exact ⟨_, _, _, exec_swz m a⟩
  | dswz m a => exact ⟨_, _, _, exec_dswz m a⟩
  | _ => exact absurd h (by simp [Instr.op])

/-- What a command can do: it responds, or it is a SWZ or DSWZ that RESET cuts off. -/
theorem exec_cases (i : Instr) (s : State) :
    ∃ t, exec i s = .next t ∧ (Responds i.op s t ∨ ((i.op = .swz ∨ i.op = .dswz) ∧ CutOff s t)) := by
  by_cases hswz : i.op = .swz ∨ i.op = .dswz
  · obtain ⟨d, m, a, he⟩ := exec_runSwz i hswz
    exact ⟨_, he s, (runSwz_responds_or_cutOff i.op d m a s hswz).imp_right (⟨hswz, ·⟩)⟩
  · obtain ⟨r, hr, he⟩ := exec_answer_legal i (hswz ∘ .inl) (hswz ∘ .inr)
    exact ⟨_, he s, .inl (responds_answer i.op r s hr)⟩

/-! ### The memory keeps its canonical form -/

/-- One element keeps the canonical form: it is written below the top of memory. -/
theorem memWf_oneElement (hw : Config.Profile) (d : Dir) (j : Job) (s : State) (hfit : BuffersFit j)
    (hs : memWf s.mem = true) :
    (∀ t, oneElement hw d j s = .ok t → memWf t.mem = true) ∧
      (∀ t, oneElement hw d j s = .error t → memWf t.mem = true) := by
  have hread := memWf_memRead (srcAddr hw d j s.loop.x s.loop.y) j.n s hs
  obtain ⟨-, he⟩ | ⟨hin, ⟨u, hu, he⟩ | ⟨v, s₁, h₁, hwrites⟩⟩ := oneElement_cases hw d j s
  · rw [he]
    exact ⟨fun t ht => (by cases ht; exact hs), nofun⟩
  · rw [he]
    exact ⟨nofun, fun t ht => (by cases ht; exact hread.2 u hu)⟩
  · have hlen : v.length = j.n := memRead_length _ _ _ _ h₁
    have hwrite := memWf_memWrite (dstAddr hw d j s.loop.x s.loop.y) v s₁
      (by rw [hlen]; exact dstAddr_add_le_memSize hw d j _ _ hfit hin) (hread.1 _ h₁)
    obtain ⟨u, hu, he⟩ | ⟨s₂, h₂, he⟩ := hwrites <;> rw [he]
    · exact ⟨nofun, fun t ht => (by cases ht; exact hwrite.2 u hu)⟩
    · exact ⟨fun t ht => (by cases ht; exact hwrite.1 s₂ h₂), nofun⟩

theorem memWf_elements (hw : Config.Profile) (d : Dir) (j : Job) (k : Nat) (s : State) (hfit : BuffersFit j)
    (hs : memWf s.mem = true) :
    (∀ t, elements hw d j k s = .ok t → memWf t.mem = true) ∧
      (∀ t, elements hw d j k s = .error t → memWf t.mem = true) :=
  elements_induct hw d j (fun t => memWf t.mem = true) (fun t => memWf t.mem = true)
    (fun u t hu => (memWf_oneElement hw d j u hfit hu).1 t)
    (fun u t hu => (memWf_oneElement hw d j u hfit hu).2 t) k s hs

theorem memWf_runSwz (op : Op) (d : Dir) (m : MWord) (a : SwzArgs) (s : State) (hs : memWf s.mem = true) :
    memWf (runSwz op d m a s).mem = true := by
  obtain ⟨c, -, he⟩ | ⟨j, u, hj, hu, he⟩ | ⟨j, u, hj, hu, he⟩ := runSwz_cases op d m a s <;> rw [he]
  · exact hs
  · exact (memWf_elements _ _ _ _ (startLoop s) (buffersFit_of_swzChecks m a j hj) hs).2 u hu
  · exact (memWf_elements _ _ _ _ (startLoop s) (buffersFit_of_swzChecks m a j hj) hs).1 u hu

/-- Every command keeps the canonical form. -/
theorem memWf_exec (i : Instr) (s t : State) (h : exec i s = .next t) (hs : memWf s.mem = true) :
    memWf t.mem = true := by
  obtain ⟨r, he⟩ | ⟨d, m, a, he⟩ := exec_shape i <;> rw [he s] at h <;> cases h
  · rwa [answer_mem]
  · exact memWf_runSwz i.op d m a s hs

/-! ### The invariant, PHASE by PHASE -/

theorem phaseInv_of_idle (s : State) (hp : s.phase = .idle) : phaseInv s ↔ s.owed = 0 ∧ s.rspQ = [] := by
  simp only [phaseInv, hp]

theorem phaseInv_of_recv (s : State) (hp : s.phase = .recv) :
    phaseInv s ↔
      s.rspQ = [] ∧ 1 ≤ s.owed ∧ ∃ op, Op.ofCode s.req.opc = some op ∧ s.owed ≤ op.format.operandWords := by
  simp only [phaseInv, hp]

theorem phaseInv_of_exec (s : State) (hp : s.phase = .exec) :
    phaseInv s ↔ s.rspQ = [] ∧ s.owed = 0 ∧ ∃ op, Op.ofCode s.req.opc = some op := by
  simp only [phaseInv, hp]

theorem phaseInv_of_send (s : State) (hp : s.phase = .send) :
    phaseInv s ↔ s.owed = 0 ∧ s.rspQ ≠ [] ∧ s.rspQ <:+ rspWords s.rsp ∧ rspLegal s.rsp := by
  simp only [phaseInv, hp]

theorem freeRsp_words_le (draw : Nat) : (freeRsp draw).words.length ≤ 11 := by
  have := Nat.mod_lt (Config.freeBits draw 21) (show 0 < 12 by decide)
  simp only [freeRsp, List.length_map, List.length_range]
  omega

/-- IDLE is a state of the invariant, whatever the block was doing before. -/
theorem inv_toIdle (s : State) (hmem : memWf s.mem = true) : (toIdle s).Inv where
  mem := hmem
  rsp := freeRsp_words_le s.free
  phase := ⟨rfl, rfl⟩

/-- A legal response put on RSP makes a state of the invariant. -/
theorem inv_sendRsp (r : Rsp) (s : State) (hmem : memWf s.mem = true) (howed : s.owed = 0) (hr : rspLegal r)
    (hwords : r.words.length ≤ 11) : (sendRsp r s).Inv where
  mem := hmem
  rsp := hwords
  phase := ⟨howed, List.cons_ne_nil _ _, List.suffix_refl _, hr⟩

theorem rspLegal_illegalCommand (o : BitVec 8) :
    rspLegal { opc := o, flags := 0x00#8, status := 0x01#8, words := [] } :=
  ⟨(by decide : 0x01#8 ∈ producedStatus), .inl rfl, fun _ => rfl⟩

theorem inv_takeHeader (s : State) (hs : s.Inv) (hp : s.phase = .idle) : (takeHeader s).Inv := by
  obtain ⟨howed, hq⟩ := (phaseInv_of_idle s hp).1 hs.phase
  obtain ⟨-, he⟩ | ⟨w, ws, -, -, he⟩ | ⟨w, ws, op, -, -, he⟩ := takeHeader_cases s <;> rw [he]
  · exact hs
  · exact inv_sendRsp _ _ hs.mem howed (rspLegal_illegalCommand _) (Nat.zero_le 11)
  · refine ⟨hs.mem, hs.rsp, ?_⟩
    by_cases h0 : op.format.operandWords = 0
    · exact (phaseInv_of_exec _ (if_pos h0)).2 ⟨hq, h0, op, Op.ofCode_code op⟩
    · exact (phaseInv_of_recv _ (if_neg h0)).2 ⟨hq, Nat.pos_of_ne_zero h0, op, Op.ofCode_code op, le_rfl⟩

theorem inv_takeOperand (s : State) (op : Op) (hs : s.Inv) (hp : s.phase = .recv)
    (hop : Op.ofCode s.req.opc = some op) : (takeOperand op s).Inv := by
  obtain ⟨hq, howed, op', hop', hle⟩ := (phaseInv_of_recv s hp).1 hs.phase
  obtain rfl : op = op' := Option.some.inj (hop.symm.trans hop')
  obtain ⟨-, he⟩ | ⟨w, ws, -, he⟩ := takeOperand_cases op s <;> rw [he]
  · exact hs
  · have hopc : Op.ofCode (s.req.latch op (op.format.operandWords + 1 - s.owed) w).opc = some op := by
      rw [Req.latch_opc, hop]
    refine ⟨hs.mem, hs.rsp, ?_⟩
    by_cases hlast : s.owed ≤ 1
    · exact (phaseInv_of_exec _ (if_pos hlast)).2 ⟨hq, Nat.sub_eq_zero_of_le hlast, op, hopc⟩
    · refine (phaseInv_of_recv _ (if_neg hlast)).2 ⟨hq, ?_, op, hopc, ?_⟩
      · simp only; omega
      · simp only; omega

theorem inv_exec (i : Instr) (s t : State) (hs : s.Inv) (hp : s.phase = .exec) (h : exec i s = .next t) : t.Inv := by
  obtain ⟨-, howed, -⟩ := (phaseInv_of_exec s hp).1 hs.phase
  have hmem := memWf_exec i s t h hs.mem
  obtain ⟨t', ht', hcases⟩ := exec_cases i s
  obtain rfl : t' = t := by cases ht'.symm.trans h; rfl
  obtain ⟨r, u, hr, hu, rfl⟩ | ⟨-, u, -, -, rfl⟩ := hcases
  · exact inv_sendRsp r u hmem (hu.owed.trans howed) hr.rspLegal hr.words_le
  · exact inv_toIdle u hmem

theorem inv_drain (s : State) (hs : s.Inv) (hp : s.phase = .send) : (drain s).Inv := by
  obtain ⟨howed, -, hsuf, hlegal⟩ := (phaseInv_of_send s hp).1 hs.phase
  obtain ⟨-, he⟩ | ⟨-, -, he⟩ | ⟨w, -, -, he⟩ | ⟨w, w', ws, -, hq, he⟩ := drain_cases s <;> rw [he]
  · exact hs
  · exact inv_toIdle _ hs.mem
  · exact inv_toIdle _ hs.mem
  · rw [hq] at hsuf
    have hrest : w' :: ws <:+ rspWords s.rsp := (List.suffix_cons w _).trans hsuf
    exact ⟨hs.mem, hs.rsp, (phaseInv_of_send { s with rspTaken := s.rspTaken ++ [w], rspQ := w' :: ws } hp).2
      ⟨howed, List.cons_ne_nil _ _, hrest, hlegal⟩⟩

/-- Settles O3: each thing a step can do keeps the invariant. -/
theorem everyStepKeepsInvariant : Obligations.EveryStepKeepsInvariant := by
  intro s t hs h
  obtain ⟨-, he⟩ | ⟨-, hp, he⟩ | ⟨-, hp, ⟨-, he⟩ | ⟨op, hop, he⟩⟩ | ⟨-, hp, ⟨-, he⟩ | ⟨op, -, he⟩⟩ | ⟨-, hp, he⟩ :=
    step_cases s <;> rw [he] at h
  · cases h
    exact inv_toIdle s hs.mem
  · cases h
    exact inv_takeHeader s hs hp
  · cases h
  · cases h
    exact inv_takeOperand s op hs hp hop
  · cases h
  · exact inv_exec _ s t hs hp h
  · cases h
    exact inv_drain s hs hp

/-- Settles O4: a fault wants an opcode in REQ that is none of the fifteen, which the invariant excludes; every command
answers a next state. -/
theorem everyStepFromInvariantAnswersNext : Obligations.EveryStepFromInvariantAnswersNext := by
  intro s hs
  obtain ⟨-, he⟩ | ⟨-, -, he⟩ | ⟨-, hp, ⟨hnone, -⟩ | ⟨op, -, he⟩⟩ | ⟨-, hp, ⟨hnone, -⟩ | ⟨op, -, he⟩⟩ | ⟨-, -, he⟩ :=
    step_cases s
  · exact ⟨_, he⟩
  · exact ⟨_, he⟩
  · obtain ⟨-, -, op, hop, -⟩ := (phaseInv_of_recv s hp).1 hs.phase
    exact absurd (hnone.symm.trans hop) nofun
  · exact ⟨_, he⟩
  · obtain ⟨-, -, op, hop⟩ := (phaseInv_of_exec s hp).1 hs.phase
    exact absurd (hnone.symm.trans hop) nofun
  · obtain ⟨t, ht, -⟩ := exec_cases (s.req.instrOf op) s
    exact ⟨t, he.trans ht⟩
  · exact ⟨_, he⟩

/-! ### The transitions of PHASE -/

/-- A command in EXEC takes no command word, and PHASE becomes SEND, or IDLE when RESET cuts off a SWZ or DSWZ. -/
theorem exec_phase (i : Instr) (s t : State) (h : exec i s = .next t) :
    t.cmdQ = s.cmdQ ∧ (t.phase = .send ∨ ((i.op = .swz ∨ i.op = .dswz) ∧ t.phase = .idle ∧ t.resetIn = true)) := by
  obtain ⟨t', ht', hcases⟩ := exec_cases i s
  obtain rfl : t' = t := by cases ht'.symm.trans h; rfl
  obtain ⟨r, u, -, hu, rfl⟩ | ⟨hop, u, hu, hreset, rfl⟩ := hcases
  · exact ⟨hu.cmdQ, .inl rfl⟩
  · exact ⟨hu.cmdQ, .inr ⟨hop, rfl, hreset⟩⟩

/-- The host takes a response word: PHASE becomes IDLE with the last one. -/
theorem drain_phase (s : State) (hp : s.phase = .send) (hq : s.rspQ ≠ []) :
    (drain s).cmdQ = s.cmdQ ∧
      (if s.rspReady then (drain s).phase = if s.rspQ.length = 1 then .idle else .send else drain s = s) := by
  obtain ⟨hr, he⟩ | ⟨-, hnil, -⟩ | ⟨w, hr, hone, he⟩ | ⟨w, w', ws, hr, hmore, he⟩ := drain_cases s
  · simp [he, hr]
  · exact absurd hnil hq
  · simp [he, hr, hone]
  · simp [he, hr, hmore, hp]

/-- Settles O5: PHASE by PHASE, the cases of the one operation that `step` runs there. -/
theorem phaseTransitionsAreThoseListed : Obligations.PhaseTransitionsAreThoseListed := by
  intro s t hs hr h
  cases hp : s.phase with
  | idle =>
    rw [step_of_idle s hr hp] at h
    cases h
    obtain ⟨hq, he⟩ | ⟨w, ws, hq, hw, he⟩ | ⟨w, ws, op, hq, hw, he⟩ := takeHeader_cases s <;> simp only [hq, he]
    · exact ⟨rfl, .inl ⟨hw, rfl⟩⟩
    · exact ⟨trivial, .inr ⟨op, hw, rfl, rfl⟩⟩
  | recv =>
    obtain ⟨-, howed, op, hop, -⟩ := (phaseInv_of_recv s hp).1 hs.phase
    rw [step_of_recv s op hr hp hop] at h
    cases h
    have hlast : s.owed ≤ 1 ↔ s.owed = 1 := by omega
    obtain ⟨hq, he⟩ | ⟨w, ws, hq, he⟩ := takeOperand_cases op s <;> simp only [hq, he, hlast]
    · exact ⟨trivial, trivial, trivial⟩
  | exec =>
    obtain ⟨-, -, op, hop⟩ := (phaseInv_of_exec s hp).1 hs.phase
    rw [step_of_exec s op hr hp hop] at h
    obtain ⟨hcmd, hphase⟩ := exec_phase _ s t h
    rw [Req.op_instrOf] at hphase
    have hopc : op = .swz ∨ op = .dswz → s.req.opc = 0x40#8 ∨ s.req.opc = 0x41#8 := by
      rw [Op.ofCode_eq_some _ _ hop]
      rintro (rfl | rfl)
      · exact .inl rfl
      · exact .inr rfl
    exact ⟨hcmd, hphase.imp_right (.imp_left hopc)⟩
  | send =>
    obtain ⟨-, hq, -⟩ := (phaseInv_of_send s hp).1 hs.phase
    rw [step_of_send s hr hp] at h
    cases h
    exact drain_phase s hp hq

/-- Settles O24: a command stays in its frame until it responds, and taking a response word touches RSP alone. -/
theorem reqStaysUntilTheResponseIsSent : Obligations.ReqStaysUntilTheResponseIsSent := by
  intro s t h hphase hbusy
  obtain ⟨-, he⟩ | ⟨-, hp, -⟩ | ⟨-, hp, -⟩ | ⟨-, -, ⟨-, he⟩ | ⟨op, -, he⟩⟩ | ⟨-, -, he⟩ := step_cases s
  · cases he.symm.trans h
    exact absurd rfl hbusy
  · simp [hp] at hphase
  · simp [hp] at hphase
  · cases he.symm.trans h
  · obtain ⟨t', ht', hcases⟩ := exec_cases (s.req.instrOf op) s
    cases (he.trans ht').symm.trans h
    obtain ⟨r, u, -, hu, rfl⟩ | ⟨-, u, -, -, rfl⟩ := hcases
    · exact hu.req
    · exact absurd rfl hbusy
  · cases he.symm.trans h
    obtain ⟨-, he⟩ | ⟨-, -, he⟩ | ⟨w, -, -, he⟩ | ⟨w, w', ws, -, -, he⟩ := drain_cases s <;> rw [he] at hbusy ⊢
    · exact absurd rfl hbusy
    · exact absurd rfl hbusy

/-! ### The response is drained -/

/-- One step for each word waiting delivers them all, in order, and ends in IDLE. -/
theorem run_drain (w : Word) (ws : List Word) (s : State) (hp : s.phase = .send) (hr : s.resetIn = false)
    (hready : s.rspReady = true) (hq : s.rspQ = w :: ws) :
    ∃ t : State, Host.Core.run Sys2Proof.core (ws.length + 1) s = .next t ∧ t.phase = .idle ∧ t.rspQ = [] ∧
      t.rspTaken = s.rspTaken ++ w :: ws ∧ t.cmdQ = s.cmdQ ∧ t.mem = s.mem := by
  have hstep := step_of_send s hr hp
  induction ws generalizing w s with
  | nil =>
    have hlast : drain s = toIdle { s with rspTaken := s.rspTaken ++ [w] } := by simp [drain, hready, hq]
    exact ⟨_, run_succ_of_step s _ 0 hstep, by rw [hlast]; exact ⟨rfl, rfl, rfl, rfl, rfl⟩⟩
  | cons w' ws ih =>
    have hmore : drain s = { s with rspTaken := s.rspTaken ++ [w], rspQ := w' :: ws } := by simp [drain, hready, hq]
    rw [hmore] at hstep
    obtain ⟨t, hrun, hidle, hnil, htaken, hcmd, hmem⟩ :=
      ih w' { s with rspTaken := s.rspTaken ++ [w], rspQ := w' :: ws } hp hr hready rfl (step_of_send _ hr hp)
    exact ⟨t, (run_succ_of_step s _ _ hstep).trans hrun, hidle, hnil, by simpa using htaken, hcmd, hmem⟩

/-- Settles O8: by `run_drain`, over the words that wait. -/
theorem wholeResponseDrains : Obligations.WholeResponseDrains := by
  intro s hp hr hready hq
  obtain ⟨w, ws, hws⟩ := List.exists_cons_of_ne_nil hq
  rw [hws]
  exact run_drain w ws s hp hr hready hws

/-! ### A packet reaches EXEC -/

/-- In EXEC with the operand words of `op` latched over whatever REQ held, the next step runs the command decoded from
them. -/
theorem step_of_latched (t : State) (op : Op) (ws : List Word) (r : Req) (hr : t.resetIn = false) (hp : t.phase = .exec)
    (hws : ws.length = op.format.operandWords) (hreq : t.req = Req.latchAll op 1 ws (r.latchHeader op)) :
    step t = exec ((Req.latchAll op 1 ws (Req.zero.latchHeader op)).instrOf op) t := by
  have hop : Op.ofCode t.req.opc = some op := by rw [hreq, Req.latchAll_opc, Req.latchHeader_opc, Op.ofCode_code]
  rw [step_of_exec t op hr hp hop, hreq, Req.instrOf_latchAll op ws _ _ hws]

/-- A packet with a legal header arrives whole: PHASE is EXEC with its words latched. -/
theorem presentPacket_of_header (hd : Word) (tl : List Word) (op : Op) (s : State) (h : Op.ofHeader hd = some op) :
    presentPacket (hd :: tl) s =
      { s with
        phase := .exec, resetIn := false, owed := 0
        req := Req.latchAll op 1 (tl.take op.format.operandWords) (s.req.latchHeader op) } := by
  simp only [presentPacket, h]

/-- Settles O16: the step runs what REQ holds, and that is the decoded command. -/
theorem stepRunsTheDecodedCommand : Obligations.StepRunsTheDecodedCommand := by
  intro s ws rest i h
  obtain ⟨hd, tl, op, rfl, hop, hlen, rfl, -⟩ := decode_ok ws rest i h
  have hstate := presentPacket_of_header hd tl op s hop
  refine ⟨by rw [hstate], by rw [hstate], ?_⟩
  exact step_of_latched _ op _ s.req (by rw [hstate]) (by rw [hstate]) (List.length_take_of_le hlen) (by rw [hstate])

/-- RECV takes the next word waiting on CMD as word `k` of the packet; with the last word owed PHASE becomes EXEC. -/
theorem step_takeOperand (op : Op) (w : Word) (q : List Word) (k : Nat) (s : State) (hp : s.phase = .recv)
    (hr : s.resetIn = false) (hop : Op.ofCode s.req.opc = some op) (hq : s.cmdQ = w :: q)
    (hk : k + s.owed = op.format.operandWords + 1) :
    step s = .next { s with
      cmdQ := q, req := s.req.latch op k w, owed := s.owed - 1, phase := if s.owed ≤ 1 then .exec else .recv } := by
  have hword : op.format.operandWords + 1 - s.owed = k := by omega
  rw [step_of_recv s op hr hp hop]
  simp only [takeOperand, hq, hword]

/-- The words `ws` still owed are taken one by one, the first of them as word `k` of the packet; then PHASE is EXEC. -/
theorem run_takeOperands (op : Op) (ws rest : List Word) (k : Nat) (s : State)
    (hp : s.phase = if ws.length = 0 then .exec else .recv) (hr : s.resetIn = false)
    (hop : Op.ofCode s.req.opc = some op) (hq : s.cmdQ = ws ++ rest) (howed : s.owed = ws.length)
    (hk : k + ws.length = op.format.operandWords + 1) :
    Host.Core.run Sys2Proof.core ws.length s =
      .next { s with phase := .exec, cmdQ := rest, owed := 0, req := Req.latchAll op k ws s.req } := by
  induction ws generalizing k s with
  | nil =>
    cases s
    cases hp
    cases hq
    cases howed
    rfl
  | cons w ws ih =>
    rw [List.length_cons] at howed hk
    have hstep := step_takeOperand op w (ws ++ rest) k s (hp.trans (if_neg nofun)) hr hop hq (by omega)
    have hphase : s.owed ≤ 1 ↔ ws.length = 0 := by omega
    rw [List.length_cons, run_succ_of_step s _ _ hstep]
    simp only [hphase]
    exact ih (k + 1) _ rfl hr (by rw [Req.latch_opc]; exact hop) rfl (by simp only; omega) (by omega)

/-- IDLE takes a legal header: REQ has its opcode, and the operand words of its format are owed. -/
theorem step_takeHeader (hd : Word) (tl : List Word) (op : Op) (s : State) (hp : s.phase = .idle)
    (hr : s.resetIn = false) (hq : s.cmdQ = hd :: tl) (hop : Op.ofHeader hd = some op) :
    step s = .next { s with
      cmdQ := tl, req := s.req.latchHeader op, owed := op.format.operandWords
      phase := if op.format.operandWords = 0 then .exec else .recv } := by
  rw [step_of_idle s hr hp]
  simp only [takeHeader, hq, hop]

/-- From IDLE the packet of a legal header is taken from CMD in as many steps as it has words. -/
theorem run_takePacket (hd : Word) (ws rest : List Word) (op : Op) (s : State) (hp : s.phase = .idle)
    (hr : s.resetIn = false) (hq : s.cmdQ = hd :: (ws ++ rest)) (hop : Op.ofHeader hd = some op)
    (hws : ws.length = op.format.operandWords) :
    Host.Core.run Sys2Proof.core (ws.length + 1) s =
      .next { s with
        phase := .exec, cmdQ := rest, owed := 0, req := Req.latchAll op 1 ws (s.req.latchHeader op) } := by
  have hheader := step_takeHeader hd (ws ++ rest) op s hp hr hq hop
  rw [run_succ_of_step s _ _ hheader, ← hws]
  exact run_takeOperands op ws rest 1 _ rfl hr (Op.ofCode_code op) rfl rfl (by omega)

/-- Settles O17: the packet is taken by `run_takePacket`, and the step after it runs what REQ holds. -/
theorem packetOnCmdRunsItsCommand : Obligations.PacketOnCmdRunsItsCommand := by
  intro s i rest hp hr h
  obtain ⟨hd, tl, op, hq, hop, hlen, rfl, rfl⟩ := decode_ok s.cmdQ rest i h
  have hws : (tl.take op.format.operandWords).length = op.format.operandWords := List.length_take_of_le hlen
  have hcmd : s.cmdQ = hd :: (tl.take op.format.operandWords ++ tl.drop op.format.operandWords) := by
    rw [hq, List.take_append_drop]
  have hrun := run_takePacket hd _ _ op s hp hr hcmd hop hws
  rw [hws, Nat.add_comm] at hrun
  rw [Req.op_instrOf]
  refine ⟨_, hrun, rfl, ?_, step_of_latched _ op _ s.req hr rfl hws rfl⟩
  rw [Req.latchAll_opc, Req.latchHeader_opc]

/-! ### The loop state a command finds -/

/-- A SWZ or DSWZ that passes its checks starts its loop afresh (R27). -/
theorem runSwz_loop_irrelevant (op : Op) (d : Dir) (m : MWord) (a : SwzArgs) (j : Job) (s : State) (l : Loop)
    (hj : swzChecks m a = .ok j) : runSwz op d m a { s with loop := l } = runSwz op d m a s := by
  simp only [runSwz, hj, startLoop]

/-- Settles O25: an answer does not touch the loop state; SWZ and DSWZ raise their exceptions before they write it, and
write it before they read it. -/
theorem loopStateOfBeforeIsNeverRead : Obligations.LoopStateOfBeforeIsNeverRead := by
  intro i s t l h
  obtain ⟨r, he⟩ | ⟨d, m, a, he⟩ := exec_shape i <;> rw [he] at h <;> cases h <;> refine ⟨_, he _, ?_⟩
  · cases r <;> exact ⟨rfl, rfl, rfl, rfl, rfl, rfl, fun _ => rfl⟩
  · cases hc : swzChecks m a with
    | error c =>
      rw [runSwz_of_error _ d m a c _ hc, runSwz_of_error _ d m a c _ hc]
      exact ⟨rfl, rfl, rfl, rfl, rfl, rfl, fun _ => rfl⟩
    | ok j =>
      rw [runSwz_loop_irrelevant _ d m a j s l hc]
      exact ⟨rfl, rfl, rfl, rfl, rfl, rfl, fun _ => rfl⟩

end Sys2Proof.Machine

/-! SUPPORT. The proofs of the statements of spec/20_memory.md: the canonical form of the memory (R41), that no step but a
SWZ or DSWZ writes it (R40), and SWZ and DSWZ beside a host that works on the memory meanwhile (R49). -/

namespace Sys2Proof.Machine

open Sys2Proof

/-! ### The canonical form -/

theorem memGet_cons_self (c : Host.Cell) (m : Memory) : memGet (c :: m) c.1 = c.2 := by
  rw [memGet_cons, if_pos rfl]

/-- A memory that lists nothing up to the first address of another one in canonical form differs from it there. -/
theorem memGet_ne_of_lt (c : Host.Cell) (m m' : Memory) (h : memWf (c :: m) = true) (hlt : ∀ d ∈ m', c.1 < d.1) :
    memGet (c :: m) c.1 ≠ memGet m' c.1 := by
  obtain ⟨-, hbyte, -, -⟩ := (memWf_cons c m).1 h
  rw [memGet_cons_self, memGet_of_lt m' c.1 hlt]
  exact hbyte

/-- Every cell of a canonical list lies above what its first cell lies above. -/
theorem lt_of_lt_head (a : Nat) (c : Host.Cell) (m : Memory) (h : memWf (c :: m) = true) (ha : a < c.1) :
    ∀ d ∈ c :: m, a < d.1 := by
  obtain ⟨-, -, habove, -⟩ := (memWf_cons c m).1 h
  intro d hd
  rcases List.mem_cons.1 hd with rfl | hd
  · exact ha
  · exact ha.trans (habove d hd)

/-- Canonical memories with a common first cell that read the same have rests that read the same. -/
theorem memGet_tail_eq (c : Host.Cell) (m m' : Memory) (h : memWf (c :: m) = true) (h' : memWf (c :: m') = true)
    (hsame : ∀ a, memGet (c :: m) a = memGet (c :: m') a) (a : Nat) : memGet m a = memGet m' a := by
  obtain ⟨-, -, habove, -⟩ := (memWf_cons c m).1 h
  obtain ⟨-, -, habove', -⟩ := (memWf_cons c m').1 h'
  by_cases ha : c.1 = a
  · rw [← ha, memGet_of_lt m c.1 habove, memGet_of_lt m' c.1 habove']
  · have := hsame a
    rwa [memGet_cons, memGet_cons, if_neg ha, if_neg ha] at this

/-- Settles O56, by induction on both lists: the lower of two first addresses would read differently in the other memory,
so the first cells are one, and the rests read the same. -/
theorem canonicalMemoryIsUnique : Obligations.CanonicalMemoryIsUnique := by
  intro m m' h h' hsame
  induction m generalizing m' with
  | nil =>
    cases m' with
    | nil => rfl
    | cons c' m' => exact absurd (hsame c'.1).symm (memGet_ne_of_lt c' m' [] h' (by simp))
  | cons c m ih =>
    cases m' with
    | nil => exact absurd (hsame c.1) (memGet_ne_of_lt c m [] h (by simp))
    | cons c' m' =>
      rcases lt_trichotomy c.1 c'.1 with hlt | heq | hgt
      · exact absurd (hsame c.1) (memGet_ne_of_lt c m _ h (lt_of_lt_head c.1 c' m' h' hlt))
      · have hbyte : c.2 = c'.2 := by
          have := hsame c.1
          rwa [memGet_cons_self, heq, memGet_cons_self] at this
        obtain rfl : c = c' := Prod.ext heq hbyte
        obtain ⟨-, -, -, hm⟩ := (memWf_cons c m).1 h
        obtain ⟨-, -, -, hm'⟩ := (memWf_cons c m').1 h'
        rw [ih m' hm hm' (memGet_tail_eq c m m' h h' hsame)]
      · exact absurd (hsame c'.1).symm (memGet_ne_of_lt c' m' _ h' (lt_of_lt_head c'.1 c m h hgt))

/-! ### Who changes the memory -/

@[simp] theorem takeHeader_mem (s : State) : (takeHeader s).mem = s.mem := by
  obtain ⟨-, he⟩ | ⟨w, ws, -, -, he⟩ | ⟨w, ws, op, -, -, he⟩ := takeHeader_cases s <;> rw [he]
  rfl

@[simp] theorem takeOperand_mem (op : Op) (s : State) : (takeOperand op s).mem = s.mem := by
  obtain ⟨-, he⟩ | ⟨w, ws, -, he⟩ := takeOperand_cases op s <;> rw [he]

@[simp] theorem drain_mem (s : State) : (drain s).mem = s.mem := by
  obtain ⟨-, he⟩ | ⟨-, -, he⟩ | ⟨w, -, -, he⟩ | ⟨w, w', ws, -, -, he⟩ := drain_cases s <;> rw [he] <;> rfl

/-- A command that changes the memory is a SWZ or DSWZ: the others end with `answer`. -/
theorem op_of_exec_mem_ne (i : Instr) (s t : State) (h : exec i s = .next t) (hmem : t.mem ≠ s.mem) :
    i.op = .swz ∨ i.op = .dswz := by
  by_contra hop
  rw [not_or] at hop
  obtain ⟨r, he⟩ := exec_answer i hop
  rw [he] at h
  cases h
  exact hmem (answer_mem i.op r s)

/-- Settles O23: of the operations a step can run, commands alone can change the memory, and of them SWZ and DSWZ alone. -/
theorem memoryChangesOnlyInSwzAndDswz : Obligations.MemoryChangesOnlyInSwzAndDswz := by
  intro s t h hmem
  obtain ⟨-, he⟩ | ⟨-, -, he⟩ | ⟨-, -, ⟨-, he⟩ | ⟨op, -, he⟩⟩ | ⟨hr, hp, ⟨-, he⟩ | ⟨op, hop, he⟩⟩ | ⟨-, -, he⟩ :=
    step_cases s <;> rw [he] at h
  · cases h; exact absurd (inReset_mem s) hmem
  · cases h; exact absurd (takeHeader_mem s) hmem
  · cases h
  · cases h; exact absurd (takeOperand_mem op s) hmem
  · cases h
  · have hswz := op_of_exec_mem_ne _ s t h hmem
    rw [Req.op_instrOf] at hswz
    rw [Op.ofCode_eq_some _ op hop]
    refine ⟨hr, hp, ?_⟩
    rcases hswz with rfl | rfl
    · exact .inl rfl
    · exact .inr rfl
  · cases h; exact absurd (drain_mem s) hmem

/-! ### A host that works on the memory, short of RESET -/

/-- RESET is released and no coming turn of the host asserts it; the memory has its canonical form. -/
structure ResetFree (s : State) : Prop where
  released : s.resetIn = false
  turns : noReset s.hostTurns
  wf : memWf s.mem = true

/-- `t` is what `s` can become in `n` byte accesses that write inside `W` alone: RESET stays away, `n` turns of the host are
used up, and a byte changes only inside `W` or where the host writes. -/
structure Beside (n : Nat) (W : Nat → Prop) (s t : State) : Prop where
  resetFree : ResetFree t
  turns : t.hostTurns = s.hostTurns.drop n
  frame : ∀ b, ¬ W b → ¬ hostWrites s.hostTurns b → memGet t.mem b = memGet s.mem b

theorem Beside.refl (W : Nat → Prop) (s : State) (hs : ResetFree s) : Beside 0 W s s := ⟨hs, rfl, fun _ _ _ => rfl⟩

theorem hostWrites_of_drop (turns : List (List HostAct)) (n a : Nat) (h : hostWrites (turns.drop n) a) :
    hostWrites turns a := by
  obtain ⟨t, ht, hwrite⟩ := h
  exact ⟨t, List.mem_of_mem_drop ht, hwrite⟩

theorem Beside.trans {n n' : Nat} {W : Nat → Prop} {s t u : State} (h : Beside n W s t) (h' : Beside n' W t u) :
    Beside (n + n') W s u where
  resetFree := h'.resetFree
  turns := by rw [h'.turns, h.turns, List.drop_drop]
  frame b hW hhost := by
    have hrest : ¬ hostWrites t.hostTurns b := by
      rw [h.turns]
      exact mt (hostWrites_of_drop _ n b) hhost
    rw [h'.frame b hW hrest, h.frame b hW hhost]

theorem Beside.mono {n : Nat} {W W' : Nat → Prop} {s t : State} (h : Beside n W s t) (hW : ∀ b, W b → W' b) :
    Beside n W' s t :=
  ⟨h.resetFree, h.turns, fun b hb => h.frame b (mt (hW b) hb)⟩

theorem Beside.setLoop {n : Nat} {W : Nat → Prop} {s t : State} (h : Beside n W s t) (l : Loop) :
    Beside n W s { t with loop := l } where
  resetFree := ⟨h.resetFree.released, h.resetFree.turns, h.resetFree.wf⟩
  turns := h.turns
  frame := h.frame

/-- One byte stored, by the block or by the host. -/
theorem beside_store (a : Nat) (b : Byte) (s : State) (hs : ResetFree s) (ha : a < memSize) :
    Beside 0 (· = a) s { s with mem := memSet s.mem a b } where
  resetFree := ⟨hs.released, hs.turns, memWf_memSet s.mem a b ha hs.wf⟩
  turns := rfl
  frame b' hb' _ := (memGet_memSet s.mem a b' b hs.wf).trans (if_neg hb')

/-- The host writes address `b` in the turn `t`. -/
def TurnWrites (t : List HostAct) (b : Nat) : Prop := ∃ a v, HostAct.write a v ∈ t ∧ a.toNat = b

theorem hostWrites_cons (t : List HostAct) (ts : List (List HostAct)) (b : Nat) :
    hostWrites (t :: ts) b ↔ TurnWrites t b ∨ hostWrites ts b := by
  simp [hostWrites, TurnWrites]

theorem beside_hostAct (h : HostAct) (s : State) (hs : ResetFree s) (hne : h ≠ .assertReset) :
    Beside 0 (TurnWrites [h]) s (hostAct h s) := by
  cases h with
  | write a v =>
    have htop : a.toNat < memSize := a.isLt
    exact (beside_store a.toNat v s hs htop).mono fun b hb => ⟨a, v, List.mem_singleton_self _, hb.symm⟩
  | read a => exact ⟨⟨hs.released, hs.turns, hs.wf⟩, rfl, fun _ _ _ => rfl⟩
  | assertReset => exact absurd rfl hne

theorem beside_hostActs (t : List HostAct) (s : State) (hs : ResetFree s) (ht : HostAct.assertReset ∉ t) :
    Beside 0 (TurnWrites t) s (t.foldl (fun s h => hostAct h s) s) := by
  induction t generalizing s with
  | nil => exact .refl _ s hs
  | cons h t ih =>
    rw [List.mem_cons, not_or] at ht
    obtain ⟨hne, ht⟩ := ht
    have hfirst := beside_hostAct h s hs (Ne.symm hne)
    refine (hfirst.mono ?_).trans ((ih _ hfirst.resetFree ht).mono ?_)
    · rintro b ⟨a, v, hwrite, hab⟩
      exact ⟨a, v, List.mem_cons.2 (.inl (List.mem_singleton.1 hwrite)), hab⟩
    · rintro b ⟨a, v, hwrite, hab⟩
      exact ⟨a, v, List.mem_cons_of_mem h hwrite, hab⟩

/-- One turn of the host, before any access. -/
theorem beside_hostTurn (s : State) (hs : ResetFree s) : Beside 1 (fun _ => False) s (hostTurn s) := by
  cases hturns : s.hostTurns with
  | nil =>
    rw [hostTurn_nil s hturns]
    exact ⟨hs, by rw [hturns]; rfl, fun _ _ _ => rfl⟩
  | cons t ts =>
    have hnoReset := hs.turns
    rw [hturns] at hnoReset
    have hturn : hostTurn s = t.foldl (fun s h => hostAct h s) { s with hostTurns := ts } := by
      simp only [hostTurn, hturns]
    have hacts := beside_hostActs t { s with hostTurns := ts }
      ⟨hs.released, fun t' ht' => hnoReset t' (List.mem_cons_of_mem t ht'), hs.wf⟩ (hnoReset t List.mem_cons_self)
    rw [← hturn] at hacts
    refine ⟨hacts.resetFree, by rw [hacts.turns, hturns]; rfl, fun b _ hhost => ?_⟩
    rw [hturns, hostWrites_cons, not_or] at hhost
    obtain ⟨hthis, hlater⟩ := hhost
    exact hacts.frame b hthis hlater

/-! ### The two memory primitives beside the host -/

theorem memRead_beside (a n : Nat) (s : State) (hs : ResetFree s) :
    ∃ v t, memRead a n s = .ok (v, t) ∧ Beside n (fun _ => False) s t := by
  induction n generalizing a s with
  | zero => exact ⟨[], s, rfl, .refl _ s hs⟩
  | succ n ih =>
    have hturn := beside_hostTurn s hs
    obtain ⟨v, t, hread, hrest⟩ := ih (a + 1) (hostTurn s) hturn.resetFree
    refine ⟨memGet (hostTurn s).mem a :: v, t, ?_, Nat.add_comm 1 n ▸ hturn.trans hrest⟩
    simp [memRead, hturn.resetFree.released, hread]

theorem memWrite_beside (a : Nat) (v : List Byte) (s : State) (hs : ResetFree s) (ha : a + v.length ≤ memSize) :
    ∃ t, memWrite a v s = .ok t ∧ Beside v.length (fun b => a ≤ b ∧ b < a + v.length) s t := by
  induction v generalizing a s with
  | nil => exact ⟨s, rfl, .refl _ s hs⟩
  | cons x v ih =>
    rw [List.length_cons] at ha ⊢
    have hturn := beside_hostTurn s hs
    have hstore := beside_store a x (hostTurn s) hturn.resetFree (by omega)
    obtain ⟨t, hwrite, hrest⟩ := ih (a + 1) _ hstore.resetFree (by omega)
    refine ⟨t, by simpa [memWrite, hturn.resetFree.released] using hwrite, ?_⟩
    have hfirst := (hturn.mono (W' := fun b => a ≤ b ∧ b < a + (v.length + 1)) (by simp)).trans
      (hstore.mono fun b hb => ⟨hb.ge, by omega⟩)
    have hall := hfirst.trans (hrest.mono fun b hb => ⟨by omega, by omega⟩)
    rwa [show 1 + 0 + v.length = v.length + 1 by omega] at hall

/-! ### The loop beside the host -/

/-- How many of the first `k` elements are copied (R196). -/
def copiedBelow (j : Job) (k : Nat) : Nat := (List.range k).countP (elemIn j)

theorem copiedBelow_succ (j : Job) (k : Nat) :
    copiedBelow j (k + 1) = copiedBelow j k + if elemIn j k then 1 else 0 := by
  simp [copiedBelow, List.range_succ, List.countP_append, List.countP_singleton]

theorem copiedBelow_le (j : Job) (k : Nat) : copiedBelow j k ≤ k := by
  simpa [copiedBelow] using List.countP_le_length (p := elemIn j) (l := List.range k)

/-- The loop state when `k` elements have had their turn (R27, R196, R197). -/
def loopAt (j : Job) (k : Nat) : Loop where
  x := k % j.wI
  y := k / j.wI
  copied := BitVec.ofNat 64 (copiedBelow j k)
  skipped := BitVec.ofNat 64 (k - copiedBelow j k)

/-- R27: the loop starts at element 0 with both counters 0. -/
theorem loopAt_zero (j : Job) : loopAt j 0 = { x := 0, y := 0, copied := 0#64, skipped := 0#64 } := by
  simp [loopAt, copiedBelow]

/-- The coordinate of element `k` moves on to that of element `k + 1`. -/
theorem advance_elem (j : Job) (k : Nat) (c e : BitVec 64) (hw : 0 < j.wI) :
    advance j ⟨k % j.wI, k / j.wI, c, e⟩ = ⟨(k + 1) % j.wI, (k + 1) / j.wI, c, e⟩ := by
  have hk := Nat.div_add_mod k j.wI
  have hlt := Nat.mod_lt k hw
  unfold advance
  split
  · next hrow =>
    obtain ⟨hq, hr⟩ := (Nat.div_mod_unique hw).2 ⟨show k % j.wI + 1 + j.wI * (k / j.wI) = k + 1 by omega, hrow⟩
    rw [hq, hr]
  · next hrow =>
    have hend : 0 + j.wI * (k / j.wI + 1) = k + 1 := by
      simp only at hrow
      rw [Nat.mul_add]
      omega
    obtain ⟨hq, hr⟩ := (Nat.div_mod_unique hw).2 ⟨hend, hw⟩
    rw [hq, hr]

theorem elementLoop_loopAt (j : Job) (k : Nat) (hw : 0 < j.wI) :
    elementLoop profile j (loopAt j k) = loopAt j (k + 1) := by
  have hle := copiedBelow_le j k
  have hsucc := copiedBelow_succ j k
  unfold elementLoop
  cases hin : elemIn j k with
  | true =>
    have hcopied : copiedBelow j (k + 1) = copiedBelow j k + 1 := by rw [hsucc, hin]; rfl
    refine (if_pos hin).trans ((advance_elem j k _ _ hw).trans ?_)
    simp only [loopAt, hcopied, BitVec.ofNat_add, Nat.add_sub_add_right]
  | false =>
    have hcopied : copiedBelow j (k + 1) = copiedBelow j k := by rw [hsucc, hin]; rfl
    have hskipped : k + 1 - copiedBelow j k = k - copiedBelow j k + 1 := by omega
    refine (if_neg (Bool.eq_false_iff.1 hin)).trans ((advance_elem j k _ _ hw).trans ?_)
    simp only [loopAt, hcopied, hskipped, BitVec.ofNat_add]

/-- Some element copies to address `b`. -/
def Covered (d : Dir) (j : Job) (b : Nat) : Prop := ∃ k, elemCovers d j k b

theorem length_elemAccesses (d : Dir) (j : Job) (k : Nat) :
    (elemAccesses d j k).length = if elemIn j k then j.n + j.n else 0 := by
  unfold elemAccesses
  split <;> simp

theorem BusOnly.loop {s t : State} (h : BusOnly s t) : t.loop = s.loop := by rw [h]

/-- The element at the loop's coordinate beside the host: the loop state moves on as it does without one, with a turn of
the host for each byte access. -/
theorem oneElement_beside (hw : Config.Profile) (d : Dir) (j : Job) (s : State) (hs : ResetFree s) (hfit : BuffersFit j) :
    ∃ t, oneElement hw d j s = .ok t ∧ t.loop = elementLoop hw j s.loop ∧
      Beside (if inBounds hw j s.loop.x s.loop.y then j.n + j.n else 0)
        (fun b => inBounds hw j s.loop.x s.loop.y = true ∧
          dstAddr hw d j s.loop.x s.loop.y ≤ b ∧ b < dstAddr hw d j s.loop.x s.loop.y + j.n) s t := by
  by_cases hin : inBounds hw j s.loop.x s.loop.y = true
  · obtain ⟨v, s₁, hread, hreads⟩ := memRead_beside (srcAddr hw d j s.loop.x s.loop.y) j.n s hs
    have hlen : v.length = j.n := memRead_length _ _ _ _ hread
    have htop := dstAddr_add_le_memSize hw d j _ _ hfit hin
    rw [← hlen] at htop
    obtain ⟨s₂, hwrite, hwrites⟩ := memWrite_beside _ v s₁ hreads.resetFree htop
    have hbus : BusOnly s s₂ := ((busOnly_memRead _ _ s).1 _ hread).trans ((busOnly_memWrite _ v s₁).1 s₂ hwrite)
    refine ⟨countCopied j s₂, by simp only [oneElement, if_pos hin, hread, hwrite], ?_, Beside.setLoop ?_ _⟩
    · rw [countCopied_loop, hbus.loop, elementLoop, if_pos hin]
    · rw [if_pos hin]
      rw [hlen] at hwrites
      exact (hreads.mono nofun).trans (hwrites.mono fun b hb => ⟨hin, hb⟩)
  · refine ⟨countSkipped j s, by rw [oneElement, if_neg hin], ?_, Beside.setLoop ?_ _⟩
    · rw [countSkipped_loop, elementLoop, if_neg hin]
    · rw [if_neg hin]
      exact .refl _ s hs

/-- Element `k` beside the host. -/
theorem oneElement_beside_at (d : Dir) (j : Job) (k : Nat) (s : State) (hs : ResetFree s) (hfit : BuffersFit j)
    (hloop : s.loop = loopAt j k) (hk : k < j.wI * j.hI) :
    ∃ t, oneElement profile d j s = .ok t ∧ t.loop = loopAt j (k + 1) ∧
      Beside (elemAccesses d j k).length (Covered d j) s t := by
  have hw : 0 < j.wI := Nat.pos_of_mul_pos_right (Nat.zero_lt_of_lt hk)
  obtain ⟨t, hone, hnext, hbeside⟩ := oneElement_beside profile d j s hs hfit
  rw [hloop] at hnext hbeside
  refine ⟨t, hone, hnext.trans (elementLoop_loopAt j k hw), ?_⟩
  rw [length_elemAccesses]
  exact hbeside.mono fun b ⟨hin, hspan⟩ => ⟨k, hk, hin, hspan⟩

/-- The elements from `k` on, beside the host. -/
theorem elements_beside (d : Dir) (j : Job) (r k : Nat) (s : State) (hs : ResetFree s) (hfit : BuffersFit j)
    (hloop : s.loop = loopAt j k) (hk : k + r ≤ j.wI * j.hI) :
    ∃ t, elements profile d j r s = .ok t ∧ t.loop = loopAt j (k + r) ∧
      Beside ((List.range' k r).flatMap (elemAccesses d j)).length (Covered d j) s t := by
  induction r generalizing k s with
  | zero => exact ⟨s, rfl, hloop, .refl _ s hs⟩
  | succ r ih =>
    obtain ⟨t, hone, hloop₁, hbeside⟩ := oneElement_beside_at d j k s hs hfit hloop (by omega)
    obtain ⟨u, hrest, hloop₂, hbeside₂⟩ := ih (k + 1) t hbeside.resetFree hloop₁ (by omega)
    refine ⟨u, by simp only [elements, hone, hrest], by rw [hloop₂, Nat.add_right_comm, Nat.add_assoc], ?_⟩
    rw [List.range'_succ, List.flatMap_cons, List.length_append]
    exact hbeside.trans hbeside₂

/-! ### The response -/

theorem elemCount_lt (v : Word) (isBC : Bool) : elemCount v.toNat isBC < 2 ^ 32 := by
  have := v.isLt
  cases isBC
  · exact this
  · simp only [elemCount, ceilDiv, if_true]
    omega

/-- The two counters fit their 64 bits. -/
theorem jobOf_elements_lt (m : MWord) (t : TileMode) (a : SwzArgs) :
    (jobOf m t a).wI * (jobOf m t a).hI < 2 ^ 64 := by
  have hw := elemCount_lt a.width (m.isBC == 1#1)
  have hh := elemCount_lt a.height (m.isBC == 1#1)
  calc (jobOf m t a).wI * (jobOf m t a).hI < 2 ^ 32 * 2 ^ 32 := Nat.mul_lt_mul'' hw hh
    _ = 2 ^ 64 := rfl

/-- RSP of a loop that ended holds the exact counts (R66, R67, R196). -/
theorem finishSwz_rsp_of_loopAt (op : Op) (j : Job) (t : State) (hloop : t.loop = loopAt j (j.wI * j.hI))
    (hlt : j.wI * j.hI < 2 ^ 64) : (finishSwz op t).rsp = swzRsp op.code j := by
  have hle : copiedCount j ≤ j.wI * j.hI := copiedBelow_le j _
  have hcopied : t.loop.copied.toNat = copiedCount j := by
    rw [hloop]
    exact Nat.mod_eq_of_lt (hle.trans_lt hlt)
  have hskipped : t.loop.skipped.toNat = j.wI * j.hI - copiedCount j := by
    rw [hloop]
    exact Nat.mod_eq_of_lt ((Nat.sub_le _ _).trans_lt hlt)
  have hflags : btsFlags t.loop.skipped = if copiedCount j = j.wI * j.hI then 0x00#8 else 0x01#8 := by
    have hnone : t.loop.skipped = 0#64 ↔ copiedCount j = j.wI * j.hI := by
      rw [← BitVec.toNat_inj, hskipped]
      simp only [BitVec.toNat_ofNat, Nat.zero_mod]
      omega
    simp only [btsFlags, hnone]
  rw [finishSwz_rsp, hflags, counterWords, hcopied, hskipped]
  simp only [words64, Nat.shiftRight_eq_div_pow]
  rfl

/-! ### SWZ and DSWZ complete beside the host -/

/-- R192 in the statements' terms. -/
theorem badBuffers_eq_true (a : SwzArgs) : badBuffers a = true ↔ buffersBad a := by
  simp only [badBuffers, buffersBad, Bool.or_eq_true, Bool.and_eq_true, decide_eq_true_eq, and_assoc, or_assoc]
  rfl

/-- When none of the causes of an exception applies, the checks of SWZ and DSWZ pass. -/
theorem swzChecks_of_operandsGood (m : MWord) (a : SwzArgs) (t : TileMode) (i : Instr)
    (hi : i = .swz m a ∨ i = .dswz m a) (hgood : operandsGood i) (ht : tmOf m.tileMode = some t) :
    swzChecks m a = .ok (jobOf m t a) := by
  have hcauses : causes i = causes (.swz m a) := by rcases hi with rfl | rfl <;> rfl
  rw [operandsGood, hcauses] at hgood
  simp only [causes, List.forall_mem_cons] at hgood
  obtain ⟨hrsv, -, hdims, hoperand, -⟩ := hgood
  rw [← badBuffers_eq_true] at hoperand
  simp only [swzChecks, if_neg hrsv, ht, if_neg hdims, if_neg hoperand]

/-- The end of the loop, field by field: the response is put together and the loop state discarded. -/
theorem finishSwz_eq (op : Op) (s t : State) (hframe : CommandFrame s t) :
    finishSwz op t = { s with
      phase := .send, rsp := (finishSwz op t).rsp, rspQ := rspWords (finishSwz op t).rsp, mem := t.mem
      loop := (finishSwz op t).loop, hostTurns := t.hostTurns, hostSaw := t.hostSaw, resetIn := t.resetIn
      free := (finishSwz op t).free } := by
  rw [hframe]
  rfl

/-- Settles O52: the loop runs to its end beside the host, and the response holds its counts. -/
theorem swzAndDswzCompleteBesideTheHost : Obligations.SwzAndDswzCompleteBesideTheHost := by
  intro m a s t i d hi hgood ht hr hturns hwf
  have hchecks := swzChecks_of_operandsGood m a t i (hi.imp And.left And.left) hgood ht
  have hexec : exec i s = .next (runSwz i.op d m a s) := by
    rcases hi with ⟨rfl, rfl⟩ | ⟨rfl, rfl⟩ <;> rfl
  obtain ⟨u, hloop, hend, hbeside⟩ := elements_beside d (jobOf m t a) _ 0 (startLoop s) ⟨hr, hturns, hwf⟩
    (buffersFit_of_swzChecks m a _ hchecks) (loopAt_zero _).symm (Nat.zero_add _).le
  rw [Nat.zero_add] at hend
  rw [← List.range_eq_range'] at hbeside
  have hrun : runSwz i.op d m a s = finishSwz i.op u := by simp only [runSwz, hchecks, hloop]
  have hframe := (commandFrame_startLoop s).trans ((commandFrame_elements _ _ _ _ _).1 u hloop)
  have hrsp := finishSwz_rsp_of_loopAt i.op (jobOf m t a) u hend (jobOf_elements_lt m t a)
  refine ⟨finishSwz i.op u, by rw [hexec, hrun], ?_, fun b hcover hhost => ?_⟩
  · have hstate := finishSwz_eq i.op s u hframe
    rw [hrsp, hbeside.turns, hbeside.resetFree.released, ← hr] at hstate
    exact hstate
  · exact hbeside.frame b (fun ⟨k, hk⟩ => hcover k hk) hhost

end Sys2Proof.Machine

/-! SUPPORT. The proofs of the statements of spec/30_encoding.md: decode and encode agree (R62 to R65), words on CMD and RSP
are taken in order (R60, R61), headers and reserved bits (R70, R71), the layout of a response (R66, R67), and the worked
packets. -/

namespace Sys2Proof

/-! ### The operand words and the command they are latched into -/

/-- The operand words are as many as the format owes (R62 to R65). -/
theorem Instr.length_operands (i : Instr) : i.operands.length = i.op.format.operandWords := by cases i <;> rfl

/-- The operand words of format A latch back into the operands (R63, R64). -/
theorem Req.latchAll_addrArgs (f : MWord → AddrArgs → Instr) (op : Op) (hop : op.format = .A) (m : MWord) (a : AddrArgs)
    (r : Req) :
    f (Req.latchAll op 1 (m.toWord :: a.words) r).m (Req.latchAll op 1 (m.toWord :: a.words) r).addrArgs = f m a := by
  rw [AddrArgs.words, latchAll_formatA op hop]
  exact congrArg (f · a) m.ofWord_toWord

/-- The operand words of format S latch back into the operands (R63, R65). -/
theorem Req.latchAll_swzArgs (f : MWord → SwzArgs → Instr) (op : Op) (hop : op.format = .S) (m : MWord) (a : SwzArgs)
    (r : Req) :
    f (Req.latchAll op 1 (m.toWord :: a.words) r).m (Req.latchAll op 1 (m.toWord :: a.words) r).swzArgs = f m a := by
  rw [SwzArgs.words, latchAll_formatS op hop]
  exact congrArg (f · a) m.ofWord_toWord

/-- Latching the operand words of a command gives its operands back, the M-word by `MWord.ofWord_toWord`. -/
theorem Req.instrOf_latchAll_operands (i : Instr) (r : Req) : (Req.latchAll i.op 1 i.operands r).instrOf i.op = i := by
  cases i with
  | rdprof | fmtinfo => rfl
  | tmprop m | mtgeom m | align m => exact congrArg _ m.ofWord_toWord
  | bswidth m p => exact congrArg (Instr.bswidth · p) m.ofWord_toWord
  | tmresolve m w h d => exact congrArg (Instr.tmresolve · w h d) m.ofWord_toWord
  | pixidx m x y z => exact congrArg (Instr.pixidx · x y z) m.ofWord_toWord
  | surfinfo m w h d c => exact congrArg (Instr.surfinfo · w h d c) m.ofWord_toWord
  | addrlin m a => exact latchAll_addrArgs .addrlin .addrlin rfl m a r
  | addrmic m a => exact latchAll_addrArgs .addrmic .addrmic rfl m a r
  | pipebank m a => exact latchAll_addrArgs .pipebank .pipebank rfl m a r
  | addrmac m a => exact latchAll_addrArgs .addrmac .addrmac rfl m a r
  | swz m a => exact latchAll_swzArgs .swz .swz rfl m a r
  | dswz m a => exact latchAll_swzArgs .dswz .dswz rfl m a r

/-- The command latched from a whole packet has those operand words: no bit of the M-word is outside its fields. -/
theorem Req.operands_instrOf_latchAll (op : Op) (ws : List Word) (r : Req) (h : ws.length = op.format.operandWords) :
    ((Req.latchAll op 1 ws r).instrOf op).operands = ws := by
  cases op with
  | rdprof => exact (List.length_eq_zero_iff.1 h).symm
  | fmtinfo => match ws, h with | [_], _ => rfl
  | tmprop | mtgeom | align => match ws, h with | [m], _ => exact congrArg (· :: _) (MWord.toWord_ofWord m)
  | bswidth => match ws, h with | [m, _], _ => exact congrArg (· :: _) (MWord.toWord_ofWord m)
  | tmresolve | pixidx => match ws, h with | [m, _, _, _], _ => exact congrArg (· :: _) (MWord.toWord_ofWord m)
  | surfinfo => match ws, h with | [m, _, _, _, _], _ => exact congrArg (· :: _) (MWord.toWord_ofWord m)
  | addrlin | addrmic | pipebank | addrmac =>
    replace h : ws.length = 8 := h
    match ws, h with
    | [m, _, _, _, _, _, _, _], _ =>
      rw [latchAll_formatA _ rfl]
      exact congrArg (· :: _) (MWord.toWord_ofWord m)
  | swz | dswz =>
    replace h : ws.length = 11 := h
    match ws, h with
    | [m, _, _, _, _, _, _, _, _, _, _], _ =>
      rw [latchAll_formatS _ rfl]
      exact congrArg (· :: _) (MWord.toWord_ofWord m)

/-! ### Decode and encode -/

/-- A legal header with the operand words of its format behind it decodes to the command latched from them. -/
theorem decode_header_append (op : Op) (ws rest : List Word) (h : ws.length = op.format.operandWords) :
    decode (op.header :: (ws ++ rest)) = .ok ((Req.latchAll op 1 ws (Req.zero.latchHeader op)).instrOf op, rest) := by
  simp [decode, ← h]

/-- Settles O11: the operand words of a command latch back into it. -/
theorem decodeEncodeRoundTrip : Obligations.DecodeEncodeRoundTrip := by
  intro i rest
  rw [encode, List.cons_append, decode_header_append i.op i.operands rest i.length_operands,
    Req.instrOf_latchAll_operands]

/-- Settles O12: a packet that decodes is a legal header and the operand words its command was latched from. -/
theorem encodeDecodeRoundTrip : Obligations.EncodeDecodeRoundTrip := by
  intro ws i rest h
  obtain ⟨hd, tl, op, rfl, hop, hlen, rfl, rfl⟩ := decode_ok ws rest i h
  rw [encode, Req.op_instrOf, Req.operands_instrOf_latchAll op _ _ (List.length_take_of_le hlen),
    ← Op.ofHeader_eq_some hd op hop, List.cons_append, List.take_append_drop]

/-- A packet written out decodes to the command whose encoding it is. -/
theorem decode_of_encode_eq (i : Instr) (ws : List Word) (h : encode i = ws) : decode ws = .ok (i, []) := by
  rw [← h, ← List.append_nil (encode i), decodeEncodeRoundTrip]

/-- Settles O15: each packet is the encoding of its command. The first one comes as the twelve words of a table row. -/
theorem workedPacketsDecode : Obligations.WorkedPacketsDecode := by
  have hrow : decode (tableWords 32 0x01000000) = .ok (.rdprof, List.replicate 11 0#32) :=
    decodeEncodeRoundTrip .rdprof _
  refine ⟨by rw [decodeTableWord, hrow], ?_, ?_, ?_, ?_, ?_, ?_, ?_, ?_⟩ <;> exact decode_of_encode_eq _ _ rfl

/-! ### Headers -/

/-- The fifteen opcodes, as R69 lists them. -/
theorem Op.mem_codes_iff (c : BitVec 8) :
    c ∈ [0x01#8, 0x02#8, 0x03#8, 0x10#8, 0x20#8, 0x21#8, 0x22#8, 0x23#8, 0x30#8, 0x31#8, 0x32#8, 0x33#8, 0x34#8, 0x40#8,
      0x41#8] ↔ ∃ op : Op, op.code = c := by
  have hcodes : [0x01#8, 0x02#8, 0x03#8, 0x10#8, 0x20#8, 0x21#8, 0x22#8, 0x23#8, 0x30#8, 0x31#8, 0x32#8, 0x33#8, 0x34#8,
      0x40#8, 0x41#8] = Op.all.map Op.code := rfl
  have hall : ∀ op : Op, op ∈ Op.all := by intro op; cases op <;> decide
  simp only [hcodes, List.mem_map, hall, true_and]

/-- The low 24 bits of a header are zero (R62). -/
theorem Op.low_header (op : Op) : op.header.extractLsb' 0 24 = 0#24 := by cases op <;> decide

/-- A word whose low 24 bits are zero is its high byte above 24 zero bits. -/
theorem eq_append_of_low_eq_zero (w : Word) (h : w.extractLsb' 0 24 = 0#24) : w = w.extractLsb' 24 8 ++ 0#24 := by
  have hw := w.isLt
  have hlow := congrArg BitVec.toNat h
  rw [BitVec.extractLsb'_toNat] at hlow
  apply BitVec.eq_of_toNat_eq
  rw [toNat_append_eq, BitVec.extractLsb'_toNat, Nat.shiftRight_eq_div_pow]
  simp only [Nat.shiftRight_zero, BitVec.toNat_ofNat, Nat.zero_mod] at hlow ⊢
  omega

/-- A word is the header of `op` exactly when its low 24 bits are zero and its high byte is the opcode (R62, R70). -/
theorem Op.eq_header_iff (w : Word) (op : Op) :
    w = op.header ↔ w.extractLsb' 0 24 = 0#24 ∧ op.code = w.extractLsb' 24 8 := by
  constructor
  · rintro rfl
    exact ⟨op.low_header, op.headerOpc_header.symm⟩
  · rintro ⟨hlow, hcode⟩
    rw [eq_append_of_low_eq_zero w hlow, ← hcode]
    rfl

end Sys2Proof

namespace Sys2Proof.Machine

open Sys2Proof

/-- IDLE answers a word that is no legal header with IllegalCommand (R70). -/
theorem step_illegalHeader (s : State) (w : Word) (ws : List Word) (hr : s.resetIn = false) (hp : s.phase = .idle)
    (hq : s.cmdQ = w :: ws) (hw : Op.ofHeader w = none) :
    step s = .next (errResponse (w.extractLsb' 24 8) 0x01#8 { s with cmdQ := ws }) := by
  rw [step_of_idle s hr hp]
  simp only [takeHeader, hq, hw]
  rfl

/-- Settles O13: the two conditions on the word say that it is a header word (`Op.eq_header_iff`), which `step` then
latches; any other word it answers. -/
theorem headerLegalOrAnsweredIllegal : Obligations.HeaderLegalOrAnsweredIllegal := by
  intro s w ws hr hp hq
  split
  · next hlegal =>
    obtain ⟨op, hcode⟩ := (Op.mem_codes_iff _).1 hlegal.2
    have hop : Op.ofHeader w = some op := by rw [(Op.eq_header_iff w op).2 ⟨hlegal.1, hcode⟩, Op.ofHeader_header]
    refine ⟨op, hcode, ?_⟩
    rw [step_takeHeader w ws op s hp hr hq hop, Req.latchHeader, hcode]
  · next hillegal =>
    refine step_illegalHeader s w ws hr hp hq (Option.eq_none_iff_forall_ne_some.2 fun op hop => hillegal ?_)
    obtain ⟨hlow, hcode⟩ := (Op.eq_header_iff w op).1 (Op.ofHeader_eq_some w op hop)
    exact ⟨hlow, (Op.mem_codes_iff _).2 ⟨op, hcode⟩⟩

/-! ### The words on CMD and RSP -/

theorem CommandFrame.rspTaken {s t : State} (h : CommandFrame s t) : t.rspTaken = s.rspTaken := by rw [h]

/-- No command hands a response word to the host. -/
theorem exec_rspTaken (i : Instr) (s t : State) (h : exec i s = .next t) : t.rspTaken = s.rspTaken := by
  obtain ⟨t', ht', hcases⟩ := exec_cases i s
  obtain rfl : t' = t := by cases ht'.symm.trans h; rfl
  obtain ⟨r, u, -, hu, rfl⟩ | ⟨-, u, hu, -, rfl⟩ := hcases <;> exact hu.rspTaken

@[simp] theorem drain_cmdQ (s : State) : (drain s).cmdQ = s.cmdQ := by
  obtain ⟨-, he⟩ | ⟨-, -, he⟩ | ⟨w, -, -, he⟩ | ⟨w, w', ws, -, -, he⟩ := drain_cases s <;> simp [he]

/-- IDLE takes the first word of CMD when there is one. -/
theorem takeHeader_cmdQ (s : State) : (takeHeader s).cmdQ = s.cmdQ.tail := by
  obtain ⟨hq, he⟩ | ⟨w, ws, hq, -, he⟩ | ⟨w, ws, op, hq, -, he⟩ := takeHeader_cases s <;> rw [he, hq]
  · rfl
  · rfl
  · rfl

/-- RECV takes the first word of CMD when there is one. -/
theorem takeOperand_cmdQ (op : Op) (s : State) : (takeOperand op s).cmdQ = s.cmdQ.tail := by
  obtain ⟨hq, he⟩ | ⟨w, ws, hq, he⟩ := takeOperand_cases op s <;> rw [he, hq]
  · rfl
  · rfl

theorem takeHeader_rspTaken (s : State) : (takeHeader s).rspTaken = s.rspTaken := by
  obtain ⟨-, he⟩ | ⟨w, ws, -, -, he⟩ | ⟨w, ws, op, -, -, he⟩ := takeHeader_cases s <;> rw [he]
  · rfl

theorem takeOperand_rspTaken (op : Op) (s : State) : (takeOperand op s).rspTaken = s.rspTaken := by
  obtain ⟨-, he⟩ | ⟨w, ws, -, he⟩ := takeOperand_cases op s <;> rw [he]

/-- What a step does to CMD: in IDLE and RECV with RESET released it takes the first word if there is one; otherwise CMD
stays (R60). -/
theorem step_cmdQ (s t : State) (h : step s = .next t) :
    (s.resetIn = false ∧ (s.phase = .idle ∨ s.phase = .recv) ∧ t.cmdQ = s.cmdQ.tail) ∨
      (¬ (s.resetIn = false ∧ (s.phase = .idle ∨ s.phase = .recv)) ∧ t.cmdQ = s.cmdQ) := by
  obtain ⟨hr, he⟩ | ⟨hr, hp, he⟩ | ⟨hr, hp, ⟨-, he⟩ | ⟨op, -, he⟩⟩ | ⟨-, hp, ⟨-, he⟩ | ⟨op, -, he⟩⟩ | ⟨-, hp, he⟩ :=
    step_cases s <;> rw [he] at h
  · cases h
    exact .inr ⟨by simp [hr], rfl⟩
  · cases h
    exact .inl ⟨hr, .inl hp, takeHeader_cmdQ s⟩
  · cases h
  · cases h
    exact .inl ⟨hr, .inr hp, takeOperand_cmdQ op s⟩
  · cases h
  · exact .inr ⟨by simp [hp], (exec_phase _ s t h).1⟩
  · cases h
    exact .inr ⟨by simp [hp], drain_cmdQ s⟩

/-- Settles O6: by what a step does to CMD, with a word there and without. -/
theorem commandWordsTakenInOrder : Obligations.CommandWordsTakenInOrder := by
  intro s t h
  obtain ⟨hr, hp, htail⟩ | ⟨hnot, hsame⟩ := step_cmdQ s t h
  · refine ⟨?_, fun _ _ w ws hq => by rw [htail, hq, List.tail_cons]⟩
    cases hq : s.cmdQ with
    | nil => exact .inl (by rw [htail, hq, List.tail_nil])
    | cons w ws => exact .inr ⟨hr, hp, w, by rw [htail, hq, List.tail_cons]⟩
  · exact ⟨.inl hsame, fun hr hp => absurd ⟨hr, hp⟩ hnot⟩

/-- What SEND hands to the host: nothing, or the first word waiting (R61). -/
theorem drain_delivers (s : State) :
    (drain s).rspTaken = s.rspTaken ∨
      (s.rspReady = true ∧ ∃ w, s.rspQ = w :: (drain s).rspQ ∧ (drain s).rspTaken = s.rspTaken ++ [w]) := by
  obtain ⟨-, he⟩ | ⟨-, -, he⟩ | ⟨w, hready, hq, he⟩ | ⟨w, w', ws, hready, hq, he⟩ := drain_cases s <;> rw [he]
  · exact .inl rfl
  · exact .inl rfl
  · exact .inr ⟨hready, w, hq, rfl⟩
  · exact .inr ⟨hready, w, hq, rfl⟩

/-- Settles O7: of the things a step can do only `drain` hands words to the host. -/
theorem responseWordsTakenInOrder : Obligations.ResponseWordsTakenInOrder := by
  intro s t h
  obtain ⟨-, he⟩ | ⟨-, -, he⟩ | ⟨-, -, ⟨-, he⟩ | ⟨op, -, he⟩⟩ | ⟨-, -, ⟨-, he⟩ | ⟨op, -, he⟩⟩ | ⟨hr, hp, he⟩ :=
    step_cases s <;> rw [he] at h
  · cases h
    exact .inl rfl
  · cases h
    exact .inl (takeHeader_rspTaken s)
  · cases h
  · cases h
    exact .inl (takeOperand_rspTaken op s)
  · cases h
  · exact .inl (exec_rspTaken _ s t h)
  · cases h
    exact (drain_delivers s).imp_right fun hword => ⟨hr, hp, hword⟩

/-! ### Reserved bits -/

/-- The checks of SWZ and DSWZ start with the reserved bits. -/
theorem swzChecks_of_rsv (m : MWord) (a : SwzArgs) (h : m.rsv ≠ 0#3) : swzChecks m a = .error .illegalCommand :=
  if_pos h

/-- The checks PIPEBANK and ADDRMAC share start with the reserved bits. -/
theorem macroChecks_of_rsv (m : MWord) (a : AddrArgs) (h : m.rsv ≠ 0#3) : macroChecks m a = .error .illegalCommand :=
  if_pos h

theorem pipebankResult_of_rsv (m : MWord) (a : AddrArgs) (h : m.rsv ≠ 0#3) :
    pipebankResult m a = .error .illegalCommand := by
  simp only [pipebankResult, macroChecks_of_rsv m a h]

theorem addrmacResult_of_rsv (m : MWord) (a : AddrArgs) (h : m.rsv ≠ 0#3) :
    addrmacResult m a = .error .illegalCommand := by
  simp only [addrmacResult, macroChecks_of_rsv m a h]

/-- A command whose result is IllegalCommand answers the header alone. -/
theorem answer_of_illegalCommand (op : Op) (r : Except Status (List Word)) (s : State) (h : r = .error .illegalCommand) :
    Host.Outcome.next (φ := Fault) (ρ := Refusal) (answer op r s) = .next (errResponse op.code 0x01#8 s) := by
  rw [h]
  rfl

/-- R71: the check of the reserved bits is the first of every command with an M-word. -/
theorem exec_of_rsv (i : Instr) (m : MWord) (s : State) (hi : i.mword? = some m) (h : m.rsv ≠ 0#3) :
    exec i s = .next (errResponse i.op.code 0x01#8 s) := by
  cases i with
  | rdprof | fmtinfo => cases hi
  | tmprop | tmresolve | mtgeom | align | bswidth | surfinfo | addrlin | pixidx | addrmic =>
    cases hi
    exact answer_of_illegalCommand _ _ s (if_pos h)
  | pipebank _ a =>
    cases hi
    exact answer_of_illegalCommand _ _ s (pipebankResult_of_rsv m a h)
  | addrmac _ a =>
    cases hi
    exact answer_of_illegalCommand _ _ s (addrmacResult_of_rsv m a h)
  | swz _ a =>
    cases hi
    exact congrArg _ (runSwz_of_error .swz .toTiled m a _ s (swzChecks_of_rsv m a h))
  | dswz _ a =>
    cases hi
    exact congrArg _ (runSwz_of_error .dswz .toLinear m a _ s (swzChecks_of_rsv m a h))

/-- Settles O14: the packet decodes as every packet does, and the command's first check answers. -/
theorem reservedBitsAnswerIllegal : Obligations.ReservedBitsAnswerIllegal :=
  fun i m s hi h => ⟨decode_of_encode_eq i _ rfl, exec_of_rsv i m s hi h⟩

/-! ### The layout of a response -/

/-- The value of a response header: its fields at their places (R66). -/
theorem rspHeader_toNat (r : Rsp) :
    (rspHeader r).toNat = r.opc.toNat * 2 ^ 24 + r.flags.toNat * 2 ^ 8 + r.status.toNat := by
  have h : (rspHeader r).toNat = (r.opc ++ 0#8 ++ r.flags ++ r.status).toNat := rfl
  rw [h]
  simp only [toNat_append_eq, BitVec.toNat_ofNat, Nat.zero_mod]
  omega

/-- The bits of a response header, field by field; bits 15:8 are FLAGS (R66). -/
theorem rspHeader_fields (r : Rsp) :
    (rspHeader r).extractLsb' 24 8 = r.opc ∧ (rspHeader r).extractLsb' 16 8 = 0#8 ∧
      (rspHeader r).extractLsb' 9 7 = r.flags.extractLsb' 1 7 ∧ (rspHeader r).extractLsb' 8 1 = r.flags.extractLsb' 0 1 ∧
      (rspHeader r).extractLsb' 0 8 = r.status := by
  have h := rspHeader_toNat r
  have hopc := r.opc.isLt
  have hflags := r.flags.isLt
  have hstatus := r.status.isLt
  refine ⟨?_, ?_, ?_, ?_, ?_⟩ <;> apply BitVec.eq_of_toNat_eq <;>
    simp only [BitVec.extractLsb'_toNat, Nat.shiftRight_eq_div_pow, h, BitVec.toNat_ofNat] <;> omega

/-- The two words of a 64-bit counter are zero exactly when the counter is (R67). -/
theorem word32_eq_zero_iff (v : BitVec 64) :
    (word32 v.toNat = 0#32 ∧ word32 (v.toNat >>> 32) = 0#32) ↔ v = 0#64 := by
  have hv := v.isLt
  simp only [word32, ← BitVec.toNat_inj, BitVec.toNat_ofNat, Nat.shiftRight_eq_div_pow, Nat.zero_mod]
  omega

/-- BTS is set exactly when the skipped count is not zero (R66, R196). -/
theorem btsFlags_eq_one_iff (v : BitVec 64) : btsFlags v = 0x01#8 ↔ v ≠ 0#64 := by
  unfold btsFlags
  split
  · next h => simp [h]
  · next h => simp [h]

theorem Status.code_ne_ok (c : Status) : c.code ≠ 0x00#8 := by cases c <;> decide

/-- Which responses have BTS set: those of an OK SWZ or DSWZ whose skipped count, result words 2 and 3, is not zero (R66). -/
def BtsRule (op : Op) (r : Rsp) : Prop :=
  r.flags = 0x01#8 ↔
    (op = .swz ∨ op = .dswz) ∧ r.status = 0x00#8 ∧ (r.words.getD 2 0#32 ≠ 0#32 ∨ r.words.getD 3 0#32 ≠ 0#32)

theorem flagsNone_ne_bts : flagsNone ≠ 0x01#8 := by decide

/-- An exception has no BTS. -/
theorem btsRule_error (op : Op) (o : BitVec 8) (c : Status) :
    BtsRule op { opc := o, flags := flagsNone, status := c.code, words := [] } :=
  iff_of_false flagsNone_ne_bts fun h => c.code_ne_ok h.2.1

/-- A command other than SWZ and DSWZ has no BTS. -/
theorem btsRule_answer (op : Op) (r : Except Status (List Word)) (s : State) (h : ¬ (op = .swz ∨ op = .dswz)) :
    BtsRule op (answer op r s).rsp := by
  cases r with
  | error c => exact btsRule_error op op.code c
  | ok ws => exact iff_of_false flagsNone_ne_bts fun hbts => h hbts.1

/-- The end of the loop sets BTS by the skipped count that it responds with. -/
theorem btsRule_finishSwz (op : Op) (s : State) (h : op = .swz ∨ op = .dswz) : BtsRule op (finishSwz op s).rsp := by
  have hcount : btsFlags s.loop.skipped = 0x01#8 ↔
      (word32 s.loop.skipped.toNat ≠ 0#32 ∨ word32 (s.loop.skipped.toNat >>> 32) ≠ 0#32) := by
    rw [btsFlags_eq_one_iff, ne_eq, ← word32_eq_zero_iff, not_and_or]
  exact hcount.trans ⟨fun hw => ⟨h, rfl, hw⟩, fun hbts => hbts.2.2⟩

/-- A SWZ or DSWZ that RESET does not cut off responds under its opcode, with BTS as R66 says. -/
theorem runSwz_rsp (op : Op) (d : Dir) (m : MWord) (a : SwzArgs) (s : State) (hop : op = .swz ∨ op = .dswz)
    (hp : (runSwz op d m a s).phase = .send) :
    (runSwz op d m a s).rsp.opc = op.code ∧ BtsRule op (runSwz op d m a s).rsp := by
  obtain ⟨c, -, he⟩ | ⟨j, u, -, -, he⟩ | ⟨j, u, -, -, he⟩ := runSwz_cases op d m a s <;> rw [he] at hp ⊢
  · exact ⟨rfl, btsRule_error op op.code c⟩
  · cases hp
  · exact ⟨rfl, btsRule_finishSwz op u hop⟩

/-- RSP of a command that responds: its opcode, and BTS as R66 says. -/
theorem exec_rsp (i : Instr) (s t : State) (h : exec i s = .next t) (hp : t.phase = .send) :
    t.rsp.opc = i.op.code ∧ BtsRule i.op t.rsp := by
  by_cases hop : i.op = .swz ∨ i.op = .dswz
  · obtain ⟨d, m, a, he⟩ := exec_runSwz i hop
    cases (he s).symm.trans h
    exact runSwz_rsp i.op d m a s hop hp
  · obtain ⟨r, -, he⟩ := exec_answer_legal i (hop ∘ .inl) (hop ∘ .inr)
    cases (he s).symm.trans h
    exact ⟨by cases r <;> rfl, btsRule_answer i.op r s hop⟩

/-- In SEND after a command RSP holds a response the command may give, and its words wait on the RSP channel. -/
theorem exec_commandRsp (i : Instr) (s t : State) (h : exec i s = .next t) (hp : t.phase = .send) :
    CommandRsp i.op t.rsp ∧ t.rspQ = rspWords t.rsp := by
  obtain ⟨t', ht', hcases⟩ := exec_cases i s
  obtain rfl : t' = t := by cases ht'.symm.trans h; rfl
  obtain ⟨r, u, hr, -, rfl⟩ | ⟨-, u, -, -, rfl⟩ := hcases
  · exact ⟨hr, rfl⟩
  · cases hp

/-- A response has result words exactly when its STATUS is OK, as many as R67 lists. -/
theorem CommandRsp.words_of_status {op : Op} {r : Rsp} (h : CommandRsp op r) :
    (r.status ≠ 0x00#8 → r.words = []) ∧ (r.status = 0x00#8 → r.words.length = resultCount op) := by
  refine ⟨h.rspLegal.2.2, fun hok => ?_⟩
  obtain ⟨hs, -⟩ | ⟨-, -, hlen⟩ := h
  · rw [hok] at hs
    exact absurd hs (by cases op <;> decide)
  · exact hlen

/-- FLAGS of a response is BTS in bit 0 and nothing else (R66). -/
theorem CommandRsp.flags_bits {op : Op} {r : Rsp} (h : CommandRsp op r) :
    r.flags.extractLsb' 1 7 = 0#7 ∧ (r.flags.extractLsb' 0 1 = 1#1 ↔ r.flags = 0x01#8) := by
  have hflags : r.flags = 0x00#8 ∨ r.flags = 0x01#8 := h.rspLegal.2.1.imp_right And.left
  rcases hflags with hf | hf <;> rw [hf] <;> decide

/-- Settles O21: the header's bits are the fields of RSP, and RSP is as R66 and R67 have it. -/
theorem responseHasItsLayout : Obligations.ResponseHasItsLayout := by
  intro i s t h hp
  obtain ⟨hrsp, hq⟩ := exec_commandRsp i s t h hp
  obtain ⟨hopc, hbts⟩ := exec_rsp i s t h hp
  obtain ⟨hproduced, -⟩ := hrsp.rspLegal
  obtain ⟨hhigh, hbit0⟩ := hrsp.flags_bits
  obtain ⟨hnone, hcount⟩ := hrsp.words_of_status
  obtain ⟨fopc, fzero, fhigh, fbit0, fstatus⟩ := rspHeader_fields t.rsp
  refine ⟨rspHeader t.rsp, t.rsp.words, hq, fopc.trans hopc, fzero, fhigh.trans hhigh, ?_⟩
  rw [fbit0, fstatus]
  exact ⟨hproduced, hbit0.trans hbts, hnone, hcount⟩

/-! ### The worked scenario -/

/-- SURFINFO's result for scenario 1 (R75). -/
theorem surfinfoResult_scenarioOne :
    surfinfoResult ⟨1#5, 1#3, 0#4, 1#4, 0#1, 0#1, 0#2, 0#1, 0#3, 0#8⟩ 64#32 64#32 1#32 0x1A#32 =
      .ok [64#32, 64#32, 1#32, 32#32, 16384#32, 0#32, 1#32, 256#32, 64#32, 1#32, 1#32] := by decide

/-- Settles O57: SURFINFO's result does not depend on the state. -/
theorem workedScenarioOneAnswers : Obligations.WorkedScenarioOneAnswers := by
  refine ⟨rfl, fun s => ⟨_, rfl, ?_⟩⟩
  rw [surfinfoResult_scenarioOne]
  rfl

end Sys2Proof.Machine

/-! SUPPORT. The proofs of the statements of spec/40_tables.md: what RDPROF, FMTINFO and TMPROP answer (R90, R95, R98), from
the lookups in the format table (R94) and the tile-mode table (R97). -/

namespace Sys2Proof.Machine

open Sys2Proof

/-! ### The commands by their results -/

theorem exec_rdprof (s : State) : exec .rdprof s = .next (answer .rdprof (.ok (profileWords profile)) s) := rfl

theorem exec_fmtinfo (c : Word) (s : State) : exec (.fmtinfo c) s = .next (answer .fmtinfo (fmtinfoResult c) s) := rfl

theorem exec_tmprop (m : MWord) (s : State) : exec (.tmprop m) s = .next (answer .tmprop (tmpropResult m) s) := rfl

/-! ### The profile -/

/-- The constants of R7 as the words of R90. -/
theorem profileWords_profile :
    profileWords profile = [2#32, 4#32, 256#32, 2048#32, 256#32, 2048#32, 1#32, 2#32, 8#32] := rfl

/-- Settles O27: the answer is the profile's nine words. -/
theorem rdprofAnswersTheProfile : Obligations.RdprofAnswersTheProfile := by
  intro s
  rw [exec_rdprof, answer_ok, profileWords_profile]
  rfl

/-! ### The format table -/

/-- The keys of the table are the known codes (R94). -/
theorem knownFormat_iff_mem_formatTable (c : Word) : knownFormat c ↔ c.toNat ∈ formatTable.map FormatInfo.formatCode :=
  Iff.rfl

/-- A code has no row exactly when it is none of the keys (R92). -/
theorem fmt?_eq_none_iff (c : Word) : fmt? c = none ↔ ¬ knownFormat c := by
  simp only [fmt?, List.find?_eq_none, beq_iff_eq, knownFormat_iff_mem_formatTable, List.mem_map, not_exists, not_and]

/-- No key stands twice in the table and every key fits a word: the lookup finds each row by its key (R92). -/
theorem fmt?_formatCode : ∀ f ∈ formatTable, fmt? (BitVec.ofNat 32 f.formatCode) = some f := by decide

theorem fmtinfoResult_of_some (c : Word) (f : FormatInfo) (h : fmt? c = some f) : fmtinfoResult c = .ok [fmtinfoWord f] := by
  simp only [fmtinfoResult, h]

theorem fmtinfoResult_of_not_known (c : Word) (h : ¬ knownFormat c) : fmtinfoResult c = .error .unsupportedFormat := by
  simp only [fmtinfoResult, (fmt?_eq_none_iff c).2 h]

/-- The key of a row and the number FMTINFO answers for it (R95). -/
def fmtinfoRow (f : FormatInfo) : Nat × Nat := (f.formatCode, (fmtinfoWord f).toNat)

/-- The format table as FMTINFO answers it (R94, R95). -/
theorem formatTable_map_fmtinfoRow :
    formatTable.map fmtinfoRow =
      [(0x001, 8), (0x002, 8), (0x007, 16), (0x008, 16), (0x00A, 16), (0x00B, 16), (0x019, 32), (0x01A, 32), (0x41A, 32),
        (0x031, 0x140), (0x431, 0x140), (0x032, 0x180), (0x432, 0x180), (0x033, 0x180), (0x433, 0x180), (0x034, 0x140),
        (0x234, 0x140), (0x035, 0x180), (0x235, 0x180)] := by decide

/-- FMTINFO with the key of a row answers that row's word. -/
theorem exec_fmtinfo_formatCode (f : FormatInfo) (s : State) (hf : f ∈ formatTable) :
    exec (.fmtinfo (BitVec.ofNat 32 f.formatCode)) s = .next (okResponse 0x02#8 [fmtinfoWord f] s) := by
  rw [exec_fmtinfo, fmtinfoResult_of_some _ f (fmt?_formatCode f hf), answer_ok]
  rfl

/-- Settles O28: the listed pairs are the rows of the format table, and a code off the table has no row. -/
theorem fmtinfoAnswersTheFormatTable : Obligations.FmtinfoAnswersTheFormatTable := by
  constructor
  · intro p hp s
    rw [← formatTable_map_fmtinfoRow] at hp
    obtain ⟨f, hf, rfl⟩ := List.mem_map.1 hp
    simp only [fmtinfoRow, BitVec.ofNat_toNat, BitVec.setWidth_eq]
    exact exec_fmtinfo_formatCode f s hf
  · intro c s hc
    rw [exec_fmtinfo, fmtinfoResult_of_not_known c hc, answer_error]
    rfl

/-! ### The tile-mode table -/

/-- The codes from 17 on name no tile mode (R63, R96). -/
theorem tmOf_eq_none_iff (c : BitVec 5) : tmOf c = none ↔ 17 ≤ c.toNat := List.getElem?_eq_none_iff

/-- The codes up to 16 name a tile mode (R96). -/
theorem exists_tmOf_eq_some (c : BitVec 5) (h : c.toNat ≤ 16) : ∃ t, tmOf c = some t :=
  Option.ne_none_iff_exists'.1 fun hnone => by have := (tmOf_eq_none_iff c).1 hnone; omega

/-- A property tabulated over the tile modes in code order is looked up by the code. -/
theorem getD_map_tileModes {α : Type} (f : TileMode → α) (c : BitVec 5) (t : TileMode) (d : α) (h : tmOf c = some t) :
    (tileModes.map f).getD c.toNat d = f t := by
  rw [tmOf] at h
  rw [List.getD_eq_getElem?_getD, List.getElem?_map, h, Option.map_some, Option.getD_some]

/-- The tile-mode table as TMPROP answers it (R97, R98). -/
theorem tileModes_map_tmpropWord :
    tileModes.map tmpropWord =
      [0x101#32, 0x101#32, 0x101#32, 0x104#32, 0x111#32, 0x211#32, 0x411#32, 0x114#32, 0x131#32, 0x231#32, 0x431#32,
        0x134#32, 0x111#32, 0x114#32, 0x131#32, 0x134#32, 0x101#32] := by decide

theorem tmpropResult_of_some (m : MWord) (t : TileMode) (hr : m.rsv = 0#3) (h : tmOf m.tileMode = some t) :
    tmpropResult m = .ok [tmpropWord t] := by
  simp only [tmpropResult, hr, ne_eq, not_true, if_false, h]

theorem tmpropResult_of_badMode (m : MWord) (hr : m.rsv = 0#3) (h : badMode m) :
    tmpropResult m = .error .unsupportedTileMode := by
  simp only [tmpropResult, hr, ne_eq, not_true, if_false, (tmOf_eq_none_iff m.tileMode).2 h]

/-- Settles O29: a legal code is looked up in the tabulated words; the two checks answer the rest. -/
theorem tmpropAnswersTheModeTable : Obligations.TmpropAnswersTheModeTable := by
  refine fun m s => ⟨fun hr hmode => ?_, fun hr => exec_of_rsv (.tmprop m) m s rfl hr, fun hr hmode => ?_⟩
  · obtain ⟨t, ht⟩ := exists_tmOf_eq_some m.tileMode hmode
    rw [exec_tmprop, tmpropResult_of_some m t hr ht, answer_ok, ← tileModes_map_tmpropWord,
      getD_map_tileModes tmpropWord m.tileMode t _ ht]
    rfl
  · rw [exec_tmprop, tmpropResult_of_badMode m hr hmode, answer_error]
    rfl

end Sys2Proof.Machine

/-! SUPPORT. The proofs of the statements of spec/41_tilemode_resolver.md: a rule keeps a mode or strictly lowers its rank
(R120), on the default profile one pass is enough (R117), and TMRESOLVE answers the table of results (R118, R121). -/

namespace Sys2Proof.Machine

open Sys2Proof

/-! ### Every rule keeps a mode or simplifies it -/

/-- The length of the longest chain of degradations (R111 to R114) that can start in a mode. It is at most 4, the bound of
R117. -/
def degradeRank : TileMode → Nat
  | .linearGeneral | .linearAligned | .linearSpecial | .tiled1DThin1 => 0
  | .tiled1DThick | .tiled2DThin1 => 1
  | .tiled2DThin2 | .tiled2DThick | .tiled2BThin1 | .tiled3DThin1 => 2
  | .tiled2DThin4 | .tiled2BThin2 | .tiled2BThick | .tiled3DThick | .tiled3BThin1 => 3
  | .tiled2BThin4 | .tiled3BThick => 4

theorem degradeRank_le (t : TileMode) : degradeRank t ≤ 4 := by cases t <;> decide

/-- `u` is `t` itself, or a tiled mode of lower rank whose family is not above that of `t`. -/
abbrev Simplifies (t u : TileMode) : Prop :=
  u = t ∨ (degradeRank u < degradeRank t ∧ familyRank (tmFamily u) ≤ familyRank (tmFamily t) ∧ tmFamily u ≠ .linear)

theorem Simplifies.trans {t u v : TileMode} (htu : Simplifies t u) (huv : Simplifies u v) : Simplifies t v := by
  obtain rfl | ⟨hrank, hfamily, htiled⟩ := htu
  · exact huv
  · obtain rfl | ⟨hrank', hfamily', htiled'⟩ := huv
    · exact .inr ⟨hrank, hfamily, htiled⟩
    · exact .inr ⟨hrank'.trans hrank, hfamily'.trans hfamily, htiled'⟩

/-- A rule that applies under a condition simplifies if its action does. -/
theorem Simplifies.ite {t u : TileMode} {p : Prop} [Decidable p] (h : p → Simplifies t u) :
    Simplifies t (if p then u else t) := by
  split
  · next hp => exact h hp
  · exact .inl rfl

theorem Simplifies.family_le {t u : TileMode} (h : Simplifies t u) :
    familyRank (tmFamily u) ≤ familyRank (tmFamily t) := by
  obtain rfl | ⟨-, hfamily, -⟩ := h
  · exact le_rfl
  · exact hfamily

/-- No chain starts in a mode of rank 0. -/
theorem Simplifies.eq_of_rank_zero {t u : TileMode} (h : Simplifies t u) (ht : degradeRank t = 0) : u = t :=
  h.resolve_right fun hlower => by omega

theorem degradeRank_of_linear (t : TileMode) (h : tmFamily t = .linear) : degradeRank t = 0 := by
  revert h
  cases t <;> decide

/-- The tiled modes of rank 0: mode 2 alone. -/
theorem eq_tiled1DThin1_of_rank_zero (t : TileMode) (hrank : degradeRank t = 0) (htiled : tmFamily t ≠ .linear) :
    t = .tiled1DThin1 := by
  revert hrank htiled
  cases t <;> decide

theorem simplifies_tmNonBS (t : TileMode) : Simplifies t (tmNonBS t) := by cases t <;> decide
theorem simplifies_thinner (t : TileMode) : Simplifies t (thinner t) := by cases t <;> decide
theorem simplifies_thickToThin (t : TileMode) : Simplifies t (thickToThin t) := by cases t <;> decide
theorem simplifies_collapse3D (t : TileMode) : Simplifies t (collapse3D t) := by cases t <;> decide

/-- The micro mode of the same thickness, which a `macroTiled` mode becomes in step C1 of R113. -/
def microOf (t : TileMode) : TileMode := if tmThick t then .tiled1DThick else .tiled1DThin1

/-- A `macroTiled` mode whose padded surface is smaller than its `macroTileDims` (R113). -/
abbrev BelowMacroTile (hw : Config.Profile) (wP hP : Nat) (t : TileMode) : Prop :=
  tmMacro t = true ∧ (wP < (macroTileDims hw t).1 ∨ hP < (macroTileDims hw t).2)

theorem ruleC1_eq (hw : Config.Profile) (wP hP : Nat) (t : TileMode) :
    ruleC1 hw wP hP t = if BelowMacroTile hw wP hP t then microOf t else t := rfl

theorem simplifies_microOf (t : TileMode) (h : tmMacro t = true) : Simplifies t (microOf t) := by
  revert h
  cases t <;> decide

theorem simplifies_ruleC1 (hw : Config.Profile) (wP hP : Nat) (t : TileMode) : Simplifies t (ruleC1 hw wP hP t) :=
  .ite fun hbelow => simplifies_microOf t hbelow.1

/-- Step C2 of R113 on the padded depth `dP`. -/
def ruleC2 (dP : Nat) (t : TileMode) : TileMode := if dP < 4 then thickToThin t else t

theorem ruleC_of_level_zero (hw : Config.Profile) (q : ResolveArgs) (t : TileMode) (h : q.mipLevel = 0) :
    ruleC hw q t = t := if_pos h

/-- Above level 0 Rule C is its three steps (R113). -/
theorem ruleC_of_level_pos (hw : Config.Profile) (q : ResolveArgs) (t : TileMode) (h : q.mipLevel ≠ 0) :
    ruleC hw q t = ruleC2 (nextPow2 q.depth) (ruleC1 hw (nextPow2 q.width) (nextPow2 q.height) (tmNonBS t)) := if_neg h

theorem simplifies_ruleC (hw : Config.Profile) (q : ResolveArgs) (t : TileMode) : Simplifies t (ruleC hw q t) := by
  by_cases h : q.mipLevel = 0
  · rw [ruleC_of_level_zero hw q t h]
    exact .inl rfl
  · rw [ruleC_of_level_pos hw q t h]
    exact ((simplifies_tmNonBS t).trans (simplifies_ruleC1 hw _ _ _)).trans (.ite fun _ => simplifies_thickToThin _)

/-- A pass keeps a mode or simplifies it, because each of the four rules does. -/
theorem simplifies_resolvePass (hw : Config.Profile) (q : ResolveArgs) (t : TileMode) :
    Simplifies t (resolvePass hw q t) :=
  have hA : Simplifies t (ruleA hw q t) := .ite fun _ => simplifies_tmNonBS t
  have hB (u : TileMode) : Simplifies u (ruleB hw u) := .ite fun _ => simplifies_thinner u
  have hD (u : TileMode) : Simplifies u (ruleD hw u) := .ite fun _ => simplifies_collapse3D u
  ((hA.trans (hB _)).trans (simplifies_ruleC hw q _)).trans (hD _)

/-! ### The loop over the passes -/

theorem resolvePasses_of_fixed (hw : Config.Profile) (q : ResolveArgs) (n : Nat) (t : TileMode)
    (h : resolvePass hw q t = t) : resolvePasses hw q n t = t := by
  cases n with
  | zero => rfl
  | succ n => exact if_pos h

/-- The first pass can always be taken out of the loop. -/
theorem resolvePasses_succ (hw : Config.Profile) (q : ResolveArgs) (n : Nat) (t : TileMode) :
    resolvePasses hw q (n + 1) t = resolvePasses hw q n (resolvePass hw q t) := by
  rw [resolvePasses]
  split
  · next h => rw [h, resolvePasses_of_fixed hw q n t h]
  · rfl

theorem simplifies_resolvePasses (hw : Config.Profile) (q : ResolveArgs) (n : Nat) (t : TileMode) :
    Simplifies t (resolvePasses hw q n t) := by
  induction n generalizing t with
  | zero => exact .inl rfl
  | succ n ih =>
    rw [resolvePasses_succ]
    exact (simplifies_resolvePass hw q t).trans (ih _)

/-- As many passes as the rank of the mode end in a fixed point: a pass that changes the mode lowers its rank. -/
theorem resolvePass_resolvePasses (hw : Config.Profile) (q : ResolveArgs) (n : Nat) (t : TileMode)
    (h : degradeRank t ≤ n) : resolvePass hw q (resolvePasses hw q n t) = resolvePasses hw q n t := by
  induction n generalizing t with
  | zero => exact (simplifies_resolvePass hw q t).eq_of_rank_zero (Nat.le_zero.1 h)
  | succ n ih =>
    obtain hfixed | ⟨hlower, -⟩ := simplifies_resolvePass hw q t
    · rw [resolvePasses_of_fixed hw q _ t hfixed, hfixed]
    · rw [resolvePasses_succ]
      exact ih _ (by omega)

theorem simplifies_resolve (hw : Config.Profile) (q : ResolveArgs) (t : TileMode) : Simplifies t (resolve hw q t) :=
  simplifies_resolvePasses hw q 4 t

/-- R120 (b): four passes reach a fixed point, because no rank is above 4. -/
theorem resolvePass_resolve (hw : Config.Profile) (q : ResolveArgs) (t : TileMode) :
    resolvePass hw q (resolve hw q t) = resolve hw q t :=
  resolvePass_resolvePasses hw q 4 t (degradeRank_le t)

/-- The loop sees the arguments through its passes alone. -/
theorem resolvePasses_congr (hw : Config.Profile) (q q' : ResolveArgs) (n : Nat) (t : TileMode)
    (h : ∀ u, resolvePass hw q' u = resolvePass hw q u) : resolvePasses hw q' n t = resolvePasses hw q n t := by
  induction n generalizing t with
  | zero => rfl
  | succ n ih => rw [resolvePasses_succ, resolvePasses_succ, h, ih]

/-- At level 0 only rules A, B and D act (R120 (c)). -/
theorem resolvePass_of_level_zero (hw : Config.Profile) (q : ResolveArgs) (t : TileMode) (hq : q.mipLevel = 0) :
    resolvePass hw q t = ruleD hw (ruleB hw (ruleA hw q t)) := by
  rw [resolvePass, ruleC_of_level_zero hw q _ hq]

/-- Rules A, B and D read no dimension. -/
theorem resolve_dims_of_level_zero (hw : Config.Profile) (q : ResolveArgs) (w h d : Nat) (t : TileMode)
    (hq : q.mipLevel = 0) : resolve hw { q with width := w, height := h, depth := d } t = resolve hw q t := by
  refine resolvePasses_congr hw q _ 4 t fun u => ?_
  rw [resolvePass_of_level_zero hw q u hq]
  exact resolvePass_of_level_zero hw { q with width := w, height := h, depth := d } u hq

/-! ### Bank-swapping -/

theorem tmSwapped_tmNonBS (t : TileMode) : tmSwapped (tmNonBS t) = false := by cases t <;> rfl

/-- A mode that is not bank-swapped is its own sibling. -/
theorem tmNonBS_of_unswapped (t : TileMode) (h : tmSwapped t = false) : tmNonBS t = t := by
  revert h
  cases t <;> decide

theorem tmSwapped_microOf (t : TileMode) : tmSwapped (microOf t) = false := by cases t <;> rfl

theorem tmSwapped_ruleC1 (hw : Config.Profile) (wP hP : Nat) (t : TileMode) (h : tmSwapped t = false) :
    tmSwapped (ruleC1 hw wP hP t) = false := by
  rw [ruleC1_eq]
  split
  · exact tmSwapped_microOf t
  · exact h

theorem tmSwapped_thickToThin (t : TileMode) : tmSwapped (thickToThin t) = tmSwapped t := by cases t <;> rfl

theorem tmSwapped_collapse3D (t : TileMode) : tmSwapped (collapse3D t) = tmSwapped t := by cases t <;> rfl

theorem tmSwapped_ruleC2 (dP : Nat) (t : TileMode) : tmSwapped (ruleC2 dP t) = tmSwapped t := by
  rw [ruleC2, apply_ite tmSwapped, tmSwapped_thickToThin, ite_self]

theorem tmSwapped_ruleD (hw : Config.Profile) (t : TileMode) : tmSwapped (ruleD hw t) = tmSwapped t := by
  rw [ruleD, apply_ite tmSwapped, tmSwapped_collapse3D, ite_self]

/-- Above level 0 step C0 removes the bank-swapping and no later rule brings it back. -/
theorem tmSwapped_ruleC (hw : Config.Profile) (q : ResolveArgs) (t : TileMode) (h : q.mipLevel ≠ 0) :
    tmSwapped (ruleC hw q t) = false := by
  rw [ruleC_of_level_pos hw q t h, tmSwapped_ruleC2, tmSwapped_ruleC1 hw _ _ _ (tmSwapped_tmNonBS t)]

/-- R120 (d): the result is what a pass makes of it, and above level 0 a pass leaves no bank-swapped mode. -/
theorem tmSwapped_resolve (hw : Config.Profile) (q : ResolveArgs) (t : TileMode) (h : 0 < q.mipLevel) :
    tmSwapped (resolve hw q t) = false := by
  rw [← resolvePass_resolve, resolvePass, tmSwapped_ruleD, tmSwapped_ruleC hw q _ h.ne']

/-- Settles O31: the result simplifies the requested mode, and four passes reach a fixed point. -/
theorem resolverOnlySimplifies : Obligations.ResolverOnlySimplifies := by
  intro hw q t
  have hsimp := simplifies_resolve hw q t
  refine ⟨hsimp.family_le, ?keeps, ?thick, resolvePass_resolve hw q t,
    fun hq w h d => resolve_dims_of_level_zero hw q w h d t hq, tmSwapped_resolve hw q t⟩
  case keeps =>
    rintro (hlinear | rfl)
    · exact hsimp.eq_of_rank_zero (degradeRank_of_linear t hlinear)
    · exact hsimp.eq_of_rank_zero rfl
  case thick =>
    rintro rfl
    exact hsimp.imp_right fun ⟨hrank, _, htiled⟩ => eq_tiled1DThin1_of_rank_zero _ (Nat.lt_one_iff.1 hrank) htiled

/-! ### One pass on the default profile -/

/-- Rule B never fires on the default profile (R112). -/
theorem ruleB_profile (t : TileMode) : ruleB profile t = t := by cases t <;> rfl

/-- Rule D never fires on the default profile (R114). -/
theorem ruleD_profile (t : TileMode) : ruleD profile t = t := by cases t <;> rfl

theorem resolvePass_profile (q : ResolveArgs) (t : TileMode) :
    resolvePass profile q t = ruleC profile q (ruleA profile q t) := by
  rw [resolvePass, ruleD_profile, ruleB_profile]

theorem ruleA_of_unswapped (hw : Config.Profile) (q : ResolveArgs) (t : TileMode) (h : tmSwapped t = false) :
    ruleA hw q t = t := if_neg fun hswap => by simp [h] at hswap

theorem ruleA_ruleA (hw : Config.Profile) (q : ResolveArgs) (t : TileMode) :
    ruleA hw q (ruleA hw q t) = ruleA hw q t := by
  by_cases h : ruleA hw q t = t
  · rw [h, h]
  · have hnonBS : ruleA hw q t = tmNonBS t := (ite_eq_or_eq _ _ _).resolve_right h
    rw [hnonBS, ruleA_of_unswapped hw q _ (tmSwapped_tmNonBS t)]

theorem tmNonBS_ruleA (hw : Config.Profile) (q : ResolveArgs) (t : TileMode) : tmNonBS (ruleA hw q t) = tmNonBS t := by
  rw [ruleA, apply_ite tmNonBS, tmNonBS_of_unswapped _ (tmSwapped_tmNonBS t), ite_self]

/-- Above level 0 step C0 covers Rule A. -/
theorem ruleC_ruleA (hw : Config.Profile) (q : ResolveArgs) (t : TileMode) (h : q.mipLevel ≠ 0) :
    ruleC hw q (ruleA hw q t) = ruleC hw q t := by
  rw [ruleC_of_level_pos hw q _ h, ruleC_of_level_pos hw q t h, tmNonBS_ruleA]

theorem tmMacro_microOf (t : TileMode) : tmMacro (microOf t) = false := by cases t <;> rfl

theorem ruleC1_ruleC1 (hw : Config.Profile) (wP hP : Nat) (t : TileMode) :
    ruleC1 hw wP hP (ruleC1 hw wP hP t) = ruleC1 hw wP hP t := by
  rw [ruleC1_eq hw wP hP t]
  split
  · have hfits : ¬ BelowMacroTile hw wP hP (microOf t) := by simp [tmMacro_microOf]
    rw [ruleC1_eq, if_neg hfits]
  · next hfits => rw [ruleC1_eq, if_neg hfits]

theorem thickToThin_thickToThin (t : TileMode) : thickToThin (thickToThin t) = thickToThin t := by cases t <;> rfl

/-- Steps C1 and C2 commute: the thin mode of a family has the `macroTileDims` of the thick one. -/
theorem ruleC1_thickToThin (hw : Config.Profile) (wP hP : Nat) (t : TileMode) (h : tmSwapped t = false) :
    ruleC1 hw wP hP (thickToThin t) = thickToThin (ruleC1 hw wP hP t) := by
  have hmacro : tmMacro (thickToThin t) = tmMacro t := by cases t <;> rfl
  have haspect : tmAspect (thickToThin t) = tmAspect t := by cases t <;> rfl
  have hbelow : BelowMacroTile hw wP hP (thickToThin t) ↔ BelowMacroTile hw wP hP t := by
    rw [BelowMacroTile, BelowMacroTile, macroTileDims, macroTileDims, hmacro, haspect]
  have hmicro : microOf (thickToThin t) = thickToThin (microOf t) := by
    revert h
    cases t <;> decide
  rw [ruleC1_eq, ruleC1_eq, if_congr hbelow rfl rfl, apply_ite thickToThin, hmicro]

theorem ruleC1_ruleC2 (hw : Config.Profile) (wP hP dP : Nat) (t : TileMode) (h : tmSwapped t = false) :
    ruleC1 hw wP hP (ruleC2 dP t) = ruleC2 dP (ruleC1 hw wP hP t) := by
  rw [ruleC2, ruleC2, apply_ite (ruleC1 hw wP hP), ruleC1_thickToThin hw wP hP t h]

theorem ruleC2_ruleC2 (dP : Nat) (t : TileMode) : ruleC2 dP (ruleC2 dP t) = ruleC2 dP t := by
  unfold ruleC2
  split
  · exact thickToThin_thickToThin t
  · rfl

theorem ruleC_ruleC (hw : Config.Profile) (q : ResolveArgs) (t : TileMode) : ruleC hw q (ruleC hw q t) = ruleC hw q t := by
  by_cases h : q.mipLevel = 0
  · rw [ruleC_of_level_zero hw q _ h]
  · have hswap := tmSwapped_tmNonBS t
    rw [ruleC_of_level_pos hw q _ h, tmNonBS_of_unswapped _ (tmSwapped_ruleC hw q t h), ruleC_of_level_pos hw q t h,
      ruleC1_ruleC2 hw _ _ _ _ (tmSwapped_ruleC1 hw _ _ _ hswap), ruleC1_ruleC1, ruleC2_ruleC2]

/-- Without rules B and D a second pass changes nothing. -/
theorem resolvePass_profile_idem (q : ResolveArgs) (t : TileMode) :
    resolvePass profile q (resolvePass profile q t) = resolvePass profile q t := by
  simp only [resolvePass_profile]
  by_cases h : q.mipLevel = 0
  · simp only [ruleC_of_level_zero profile q _ h, ruleA_ruleA]
  · rw [ruleC_ruleA profile q _ h, ruleC_ruleC]

theorem resolve_profile (q : ResolveArgs) (t : TileMode) : resolve profile q t = resolvePass profile q t := by
  rw [resolve, resolvePasses_succ, resolvePasses_of_fixed profile q 3 _ (resolvePass_profile_idem q t)]

/-- Settles O32: rules B and D never fire, and rules A and C are idempotent. -/
theorem resolverNeedsTwoPassesAtMost : Obligations.ResolverNeedsTwoPassesAtMost :=
  fun q t => ⟨resolve_profile q t, resolvePass_profile_idem q t⟩

/-! ### The table of results -/

/-- A legal code is the code of the mode it names (R97). -/
theorem tmCode_of_tmOf (c : BitVec 5) (t : TileMode) (h : tmOf c = some t) : tmCode t = c.toNat := by
  have hcodes : tileModes.map tmCode = List.range tileModes.length := by decide
  have hlt : c.toNat < tileModes.length := (List.getElem?_eq_some_iff.1 h).1
  rw [← getD_map_tileModes tmCode c t 0 h, hcodes, List.getD_eq_getElem?_getD, List.getElem?_range hlt, Option.getD_some]

theorem codeSibling_tmCode (t : TileMode) : codeSibling (tmCode t) = tmCode (tmNonBS t) := by cases t <;> rfl

/-- The codes of the thin bank-swapped modes (R97). -/
theorem tmCode_mem_swappedThin (t : TileMode) :
    tmCode t ∈ [8, 9, 10, 14] ↔ tmSwapped t = true ∧ tmThick t = false := by cases t <;> decide

/-- The codes of the thick bank-swapped modes (R97). -/
theorem tmCode_mem_swappedThick (t : TileMode) :
    tmCode t ∈ [11, 15] ↔ tmSwapped t = true ∧ tmThick t = true := by cases t <;> decide

/-- A thin mode is split into several slices only when there are several samples (R115). -/
theorem one_lt_samples_of_tileSlices (hw : Config.Profile) (t : TileMode) (bpp ns : Nat) (ht : tmThick t = false)
    (h : 1 < tileSlices hw t bpp ns) : 1 < ns := by
  simp only [tileSlices, ht, Bool.false_eq_true, if_false] at h
  split at h
  · omega
  · have hle := Nat.div_le_self ns (hw.splitSize / (8 * bpp))
    omega

/-- A thick mode is split into several slices from 86 bits per pixel on: `2048 / (8 * bpp)` is then 1 or 2 (R115, R121). -/
theorem one_lt_tileSlices_thick (t : TileMode) (bpp ns : Nat) (ht : tmThick t = true) (hpos : 0 < bpp) (hlt : bpp < 256) :
    1 < tileSlices profile t bpp ns ↔ 86 ≤ bpp := by
  have hsamples : 0 < 2048 / (8 * bpp) := Nat.div_pos (by omega) (by omega)
  have htwo : 2048 / (8 * bpp) < 3 ↔ 2048 < 3 * (8 * bpp) := Nat.div_lt_iff_lt_mul (by omega)
  have hslices : 2 ≤ 4 / (2048 / (8 * bpp)) ↔ 2 * (2048 / (8 * bpp)) ≤ 4 := Nat.le_div_iff_mul_le hsamples
  simp only [tileSlices, profile, ht, if_true, hsamples.ne', if_false, lt_max_iff, lt_irrefl, false_or]
  omega

/-- When Rule A fires on the default profile: the level-0 column of R121. -/
theorem ruleA_fires_iff (q : ResolveArgs) (t : TileMode) (hpos : 0 < q.bpp) (hlt : q.bpp < 256) :
    tmSwapped t = true ∧ (1 < q.sampleCount ∨ 1 < tileSlices profile t q.bpp q.sampleCount ∨ q.isDepthBuffer = true) ↔
      (tmCode t ∈ [8, 9, 10, 14] ∧ (q.isDepthBuffer = true ∨ 1 < q.sampleCount)) ∨
        (tmCode t ∈ [11, 15] ∧ (q.isDepthBuffer = true ∨ 1 < q.sampleCount ∨ 86 ≤ q.bpp)) := by
  rw [tmCode_mem_swappedThin, tmCode_mem_swappedThick]
  cases ht : tmThick t with
  | false =>
    have hslices := one_lt_samples_of_tileSlices profile t q.bpp q.sampleCount ht
    simp only [Bool.false_eq_true]
    tauto
  | true =>
    rw [one_lt_tileSlices_thick t q.bpp q.sampleCount ht hpos hlt]
    simp only [Bool.true_eq_false]
    tauto

/-- The tile of the default profile by the aspect column: 32×16, 16×32 or 8×64 (R119). -/
theorem macroTileDims_profile (t : TileMode) : macroTileDims profile t = (32 / tmAspect t, tmAspect t * 16) := by
  rw [macroTileDims, Nat.mul_assoc]
  rfl

/-- The column `mipLevel > 0` of R121, mode by mode. -/
theorem tmCode_ruleC2_ruleC1 (wP hP dP : Nat) (t : TileMode) (h : tmSwapped t = false) :
    tmCode (ruleC2 dP (ruleC1 profile wP hP t)) = resolvedAtMip (tmCode t) wP hP dP := by
  have hbelow : BelowMacroTile profile wP hP t ↔
      tmMacro t = true ∧ (wP < 32 / tmAspect t ∨ hP < tmAspect t * 16) := by
    rw [BelowMacroTile, macroTileDims_profile]
  rw [ruleC2, ruleC1_eq, if_congr hbelow rfl rfl]
  simp only [apply_ite thickToThin, apply_ite tmCode]
  cases t with
  | tiled2BThin1 | tiled2BThin2 | tiled2BThin4 | tiled2BThick | tiled3BThin1 | tiled3BThick => cases h
  | linearGeneral | linearAligned | linearSpecial | tiled1DThin1 | tiled1DThick =>
    simp [resolvedAtMip, tmMacro, tmFamily, tmCode, thickToThin]
  | tiled2DThin1 | tiled2DThin2 | tiled2DThin4 | tiled2DThick | tiled3DThin1 | tiled3DThick =>
    by_cases hshallow : dP < 4 <;>
      simp [hshallow, resolvedAtMip, tmMacro, tmFamily, tmAspect, tmCode, thickToThin, microOf, tmThick, tmThickness]

/-- The result table: the code `Resolve` returns on the default profile (R121). -/
theorem tmCode_resolve_profile (q : ResolveArgs) (t : TileMode) (hpos : 0 < q.bpp) (hlt : q.bpp < 256) :
    tmCode (resolve profile q t) =
      resolvedCode (tmCode t) q.bpp q.mipLevel q.width q.height q.depth q.sampleCount q.isDepthBuffer := by
  rw [resolve_profile, resolvePass_profile, resolvedCode, codeSibling_tmCode]
  split
  · next h =>
    rw [ruleC_of_level_zero profile q _ h, ruleA, apply_ite tmCode]
    exact if_congr (ruleA_fires_iff q t hpos hlt) rfl rfl
  · next h =>
    rw [ruleC_ruleA profile q t h, ruleC_of_level_pos profile q t h, tmCode_ruleC2_ruleC1 _ _ _ _ (tmSwapped_tmNonBS t)]

/-! ### The command TMRESOLVE -/

theorem exec_tmresolve (m : MWord) (w h d : Word) (s : State) :
    exec (.tmresolve m w h d) s = .next (answer .tmresolve (tmresolveResult m w h d) s) := rfl

theorem tmresolveResult_of_badMode (m : MWord) (w h d : Word) (hr : m.rsv = 0#3) (hmode : badMode m) :
    tmresolveResult m w h d = .error .unsupportedTileMode := by
  simp only [tmresolveResult, hr, ne_eq, not_true, if_false, (tmOf_eq_none_iff m.tileMode).2 hmode]

/-- What TMRESOLVE still checks when the M-word names a mode (R118). -/
theorem tmresolveResult_of_some (m : MWord) (w h d : Word) (t : TileMode) (hr : m.rsv = 0#3)
    (ht : tmOf m.tileMode = some t) :
    tmresolveResult m w h d =
      if m.sampleCount = 0#4 then .error .unsupportedSampleCount
      else if m.bpp = 0#8 then .error .badOperand
      else .ok [word32 (tmCode (resolve profile (tmresolveArgs m w h d) t))] := by
  simp only [tmresolveResult, hr, ne_eq, not_true, if_false, ht]

/-- R118: the four checks in their order. -/
theorem tmresolve_reportsFirstFailure (m : MWord) (w h d : Word) (s : State) :
    reportsFirstFailure (.tmresolve m w h d) s := by
  rintro c (⟨hr, rfl⟩ | ⟨hr, ⟨hmode, rfl⟩ | ⟨hmode, hrest⟩⟩)
  · exact exec_of_rsv _ m s rfl hr
  · rw [exec_tmresolve, tmresolveResult_of_badMode m w h d (not_not.1 hr) hmode, answer_error]
    rfl
  · obtain ⟨t, ht⟩ := exists_tmOf_eq_some m.tileMode (by simp only [badMode] at hmode; omega)
    rw [exec_tmresolve, tmresolveResult_of_some m w h d t (not_not.1 hr) ht]
    obtain ⟨hns, rfl⟩ | ⟨hns, ⟨hbpp, rfl⟩ | ⟨-, hfalse⟩⟩ := hrest
    · rw [if_pos hns, answer_error]
      rfl
    · rw [if_neg hns, if_pos hbpp, answer_error]
      rfl
    · exact hfalse.elim

/-- Settles O30: the requested code names a mode, whose result is the table's; the checks are those of the command. -/
theorem tmresolveAnswersTheResultTable : Obligations.TmresolveAnswersTheResultTable := by
  refine fun m w h d s => ⟨fun hr hmode hns hbpp => ?_, tmresolve_reportsFirstFailure m w h d s⟩
  obtain ⟨t, ht⟩ := exists_tmOf_eq_some m.tileMode hmode
  have hpos : 0 < m.bpp.toNat := Nat.pos_of_ne_zero fun hzero => hbpp (BitVec.eq_of_toNat_eq hzero)
  rw [exec_tmresolve, tmresolveResult_of_some m w h d t hr ht, if_neg hns, if_neg hbpp, answer_ok,
    tmCode_resolve_profile _ t hpos m.bpp.isLt, tmCode_of_tmOf m.tileMode t ht]
  rfl

end Sys2Proof.Machine

/-! SUPPORT. The proofs of the statements of spec/42_geometry.md: MTGEOM (R131), ALIGN (R136), BSWIDTH (R138) and
SURFINFO (R140), and what holds of every SURFINFO response with STATUS OK (R149). -/

namespace Sys2Proof.Machine

open Sys2Proof

/-! ### The first check that fails -/

/-- Where one of the causes applies, the result is the exception of the first one. -/
def FailsFirst (cs : List (BitVec 8 × Prop)) (r : Except Status (List Word)) : Prop :=
  ∀ c, firstCause cs c → ∃ e : Status, r = .error e ∧ e.code = c

theorem failsFirst_nil (r : Except Status (List Word)) : FailsFirst [] r := fun _ h => h.elim

/-- The first cause applies, and its exception is the result. -/
theorem failsFirst_error {cs : List (BitVec 8 × Prop)} {q : Prop} (e : Status) (hq : q) :
    FailsFirst ((e.code, q) :: cs) (.error e) := by
  rintro c (⟨-, rfl⟩ | ⟨hnot, -⟩)
  · exact ⟨e, rfl, rfl⟩
  · exact absurd hq hnot

/-- The first cause does not apply. -/
theorem failsFirst_pass {cs : List (BitVec 8 × Prop)} {r : Except Status (List Word)} {d : BitVec 8} {q : Prop}
    (hq : ¬ q) (hr : FailsFirst cs r) : FailsFirst ((d, q) :: cs) r := by
  rintro c (⟨happlies, -⟩ | ⟨-, hrest⟩)
  · exact absurd happlies hq
  · exact hr c hrest

/-- One check more in front, on the condition of the first cause. -/
theorem failsFirst_ite {cs : List (BitVec 8 × Prop)} {r : Except Status (List Word)} {p q : Prop} [Decidable p]
    (e : Status) (hqp : q ↔ p) (hr : FailsFirst cs r) :
    FailsFirst ((e.code, q) :: cs) (if p then .error e else r) := by
  split
  · next hp => exact failsFirst_error e (hqp.2 hp)
  · next hp => exact failsFirst_pass (hp ∘ hqp.1) hr

theorem not_badMode_of_tmOf (m : MWord) (t : TileMode) (h : tmOf m.tileMode = some t) : ¬ badMode m :=
  fun hbad => by simp [(tmOf_eq_none_iff m.tileMode).2 hbad] at h

/-- R217 for a command that ends with `answer`: the exception of its first cause is the header alone. -/
theorem reportsFirstFailure_of_failsFirst (i : Instr) (r : Except Status (List Word)) (s : State)
    (he : exec i s = .next (answer i.op r s)) (h : FailsFirst (causes i) r) : reportsFirstFailure i s := by
  intro c hc
  obtain ⟨e, rfl, rfl⟩ := h c hc
  rw [he, answer_error]

/-! ### The columns of the tile-mode table by code (R97) -/

theorem codeThickness_tmCode (t : TileMode) : codeThickness (tmCode t) = tmThickness t := by cases t <;> rfl

theorem codeAspect_tmCode (t : TileMode) : codeAspect (tmCode t) = tmAspect t := by cases t <;> rfl

theorem codeSwapped_tmCode (t : TileMode) : codeSwapped (tmCode t) ↔ tmSwapped t = true := by cases t <;> decide

theorem tmMacro_iff_code (t : TileMode) : tmMacro t = true ↔ 4 ≤ tmCode t ∧ tmCode t ≤ 15 := by cases t <;> decide

theorem tmThick_iff_thickness (t : TileMode) : tmThick t = true ↔ tmThickness t = 4 := by cases t <;> decide

theorem modeOutside_iff (m : MWord) (t : TileMode) (h : tmOf m.tileMode = some t) :
    modeOutside m 4 15 ↔ tmMacro t = false := by
  rw [← Bool.not_eq_true, tmMacro_iff_code, tmCode_of_tmOf m.tileMode t h, modeOutside]
  omega

/-! ### Macro-tiles -/

theorem exec_mtgeom (m : MWord) (s : State) : exec (.mtgeom m) s = .next (answer .mtgeom (mtgeomResult m) s) := rfl

theorem ceilDiv_mul_left (a n : Nat) (ha : 0 < a) : ceilDiv (a * n) a = n := smul_ceilDiv ha n

/-- On the default profile `macroTileDims` spans 512 elements, whatever the aspect (R119). -/
theorem macroTile_area (t : TileMode) : (macroTileDims profile t).2 * (macroTileDims profile t).1 = 8 * 64 := by
  cases t <;> rfl

/-- `MacroTileBytes` on the default profile: 512 elements are 64 bytes per bit of an element (R130). -/
theorem macroTileBytes_profile (t : TileMode) (bpp ns : Nat) :
    macroTileBytes profile t bpp ns = 64 * ns * tmThickness t * bpp := by
  rw [macroTileBytes, Nat.mul_assoc _ (macroTileDims profile t).2, macroTile_area, Nat.mul_left_comm,
    ceilDiv_mul_left 8 _ (by decide)]
  ring

/-- R131: the result once the checks are passed. -/
theorem mtgeomResult_of_legal (m : MWord) (t : TileMode) (hr : m.rsv = 0#3) (ht : tmOf m.tileMode = some t)
    (hns : m.sampleCount ≠ 0#4) (hmacro : tmMacro t = true) (hbpp : m.bpp ≠ 0#8) :
    mtgeomResult m =
      .ok [word32 (macroTileDims profile t).1, word32 (macroTileDims profile t).2,
        word32 (macroTileBytes profile t m.bpp.toNat m.sampleCount.toNat)] := by
  simp [mtgeomResult, hr, ht, hns, hmacro, hbpp]

/-- R131: the four checks in their order. -/
theorem mtgeomResult_failsFirst (m : MWord) : FailsFirst (causes (.mtgeom m)) (mtgeomResult m) := by
  unfold mtgeomResult
  refine failsFirst_ite .illegalCommand Iff.rfl ?_
  split
  · next hmode => exact failsFirst_error .unsupportedTileMode ((tmOf_eq_none_iff _).1 hmode)
  · next t ht =>
    refine failsFirst_pass (not_badMode_of_tmOf m t ht) (failsFirst_ite .unsupportedSampleCount Iff.rfl ?_)
    exact failsFirst_ite .badOperand (or_congr_left (modeOutside_iff m t ht)) (failsFirst_nil _)

/-- Settles O33: a legal code names a `macroTiled` mode, whose tile is that of its aspect. -/
theorem mtgeomAnswersTheMacroTile : Obligations.MtgeomAnswersTheMacroTile := by
  refine fun m s => ⟨fun hr hlo hhi hns hbpp => ?_,
    reportsFirstFailure_of_failsFirst _ _ s (exec_mtgeom m s) (mtgeomResult_failsFirst m)⟩
  obtain ⟨t, ht⟩ := exists_tmOf_eq_some m.tileMode (by omega)
  rw [← tmCode_of_tmOf m.tileMode t ht] at hlo hhi ⊢
  rw [exec_mtgeom, mtgeomResult_of_legal m t hr ht hns ((tmMacro_iff_code t).2 ⟨hlo, hhi⟩) hbpp, answer_ok,
    macroTileDims_profile, macroTileBytes_profile, codeAspect_tmCode, codeThickness_tmCode, Nat.mul_comm 16]
  rfl

/-! ### Alignments -/

theorem exec_align (m : MWord) (s : State) : exec (.align m) s = .next (answer .align (alignResult m) s) := rfl

/-- The six result words of ALIGN (R136). -/
def alignWords (t : TileMode) (bpp ns : Nat) : List Word :=
  [word32 (aligns profile t bpp ns).base, word32 (aligns profile t bpp ns).pitch,
    word32 (aligns profile t bpp ns).height, word32 (aligns profile t bpp ns).depth,
    word32 (alignDims profile t).1, word32 (alignDims profile t).2]

/-- R136: the result once the checks are passed. -/
theorem alignResult_of_legal (m : MWord) (t : TileMode) (hr : m.rsv = 0#3) (ht : tmOf m.tileMode = some t)
    (hns : m.sampleCount ≠ 0#4) (hbpp : m.bpp ≠ 0#8) :
    alignResult m = .ok (alignWords t m.bpp.toNat m.sampleCount.toNat) := by
  simp [alignResult, hr, ht, hns, hbpp, alignWords]

/-- R136: the four checks in their order. -/
theorem alignResult_failsFirst (m : MWord) : FailsFirst (causes (.align m)) (alignResult m) := by
  unfold alignResult
  refine failsFirst_ite .illegalCommand Iff.rfl ?_
  split
  · next hmode => exact failsFirst_error .unsupportedTileMode ((tmOf_eq_none_iff _).1 hmode)
  · next t ht =>
    refine failsFirst_pass (not_badMode_of_tmOf m t ht) (failsFirst_ite .unsupportedSampleCount Iff.rfl ?_)
    exact failsFirst_ite .badOperand Iff.rfl (failsFirst_nil _)

/-- `pitchAlign` of the `macroTiled` family on the default profile (R135). -/
theorem macroPitchAlign_profile (t : TileMode) (bpp ns : Nat) :
    macroPitchAlign profile t bpp ns =
      max (32 / tmAspect t) (32 / tmAspect t * (256 / bpp / (8 * tmThickness t) / ns)) := by
  rw [macroPitchAlign, macroTileDims_profile]
  rfl

theorem macroTilePlaneBytes_profile (t : TileMode) (bpp ns : Nat) :
    macroTilePlaneBytes profile t bpp ns = ns * (bpp * 64) := by
  rw [macroTilePlaneBytes, Nat.mul_assoc bpp, macroTile_area, Nat.mul_left_comm, ceilDiv_mul_left 8 _ (by decide)]

theorem slicesPerSplit_profile (t : TileMode) (bpp ns : Nat) :
    slicesPerSplit profile t bpp ns =
      if tmThickness t * ns * bpp * 8 < 2048 then 1 else tmThickness t * ns * bpp * 8 / 2048 := by
  have hbytes : ceilDiv (tmThickness t * ns * bpp * 64) 8 = tmThickness t * ns * bpp * 8 := by
    rw [show tmThickness t * ns * bpp * 64 = 8 * (tmThickness t * ns * bpp * 8) by ring,
      ceilDiv_mul_left 8 _ (by decide)]
  rw [slicesPerSplit, hbytes]
  rfl

/-- The quotient `a2` of R135 is exact, since the height in `macroTileDims` is a multiple of 8. -/
theorem ceilDiv_macroRow (t : TileMode) (bpp ns pa : Nat) :
    ceilDiv (ns * (tmAspect t * 16) * bpp * pa) 8 = ns * (16 * tmAspect t) * bpp * pa / 8 := by
  rw [show ns * (tmAspect t * 16) * bpp * pa = 8 * (ns * (2 * tmAspect t) * bpp * pa) by ring,
    show ns * (16 * tmAspect t) * bpp * pa = 8 * (ns * (2 * tmAspect t) * bpp * pa) by ring,
    ceilDiv_mul_left 8 _ (by decide), Nat.mul_div_cancel_left _ (by decide)]

/-- `baseAlign` of the `macroTiled` family on the default profile (R135). -/
theorem alignsMacro_base_profile (t : TileMode) (bpp ns : Nat) :
    (alignsMacro profile t bpp ns).base =
      max (ns * (bpp * 64)) (ns * (16 * tmAspect t) * bpp * macroPitchAlign profile t bpp ns / 8) /
        slicesPerSplit profile t bpp ns := by
  rw [alignsMacro, macroTilePlaneBytes_profile, macroTileDims_profile, ceilDiv_macroRow]

/-- ALIGN's words for the `macroTiled` family (R135, R136). -/
theorem alignWords_macroTiled (t : TileMode) (bpp ns : Nat) (h : tmFamily t = .macroTiled) :
    alignWords t bpp ns =
      [word32 (alignsMacro profile t bpp ns).base, word32 (macroPitchAlign profile t bpp ns),
        word32 (16 * tmAspect t), word32 (tmThickness t), word32 (32 / tmAspect t), word32 (16 * tmAspect t)] := by
  have hmacro : tmMacro t = true := by rw [tmMacro, h]; rfl
  have hdims : alignDims profile t = (32 / tmAspect t, 16 * tmAspect t) := by
    rw [alignDims, if_pos hmacro, macroTileDims_profile, Nat.mul_comm]
  have haligns : aligns profile t bpp ns = alignsMacro profile t bpp ns := by rw [aligns, h]
  rw [alignWords, haligns, hdims, alignsMacro, macroTileDims_profile, Nat.mul_comm (tmAspect t) 16]

/-- ALIGN's words for each family of modes (R133 to R136). -/
theorem alignWords_eq (t : TileMode) (bpp ns : Nat) :
    alignWords t bpp ns =
      if tmCode t = 1 then [256#32, BitVec.ofNat 32 (max 64 (2048 / bpp)), 1#32, 1#32, 0#32, 0#32]
      else if tmCode t = 0 ∨ tmCode t = 16 then [1#32, 1#32, 1#32, 1#32, 0#32, 0#32]
      else if tmCode t = 2 ∨ tmCode t = 3 then
        [256#32, BitVec.ofNat 32 (max 8 (256 / bpp / ns / tmThickness t)), 8#32, BitVec.ofNat 32 (tmThickness t), 0#32,
          0#32]
      else
        [word32 (alignsMacro profile t bpp ns).base, word32 (macroPitchAlign profile t bpp ns),
          word32 (16 * tmAspect t), word32 (tmThickness t), word32 (32 / tmAspect t), word32 (16 * tmAspect t)] := by
  cases t with
  | linearGeneral | linearAligned | linearSpecial | tiled1DThin1 | tiled1DThick => rfl
  | _ => exact alignWords_macroTiled _ bpp ns rfl

/-- Settles O34: the words are those of the mode's family. -/
theorem alignAnswersTheAlignments : Obligations.AlignAnswersTheAlignments := by
  refine fun m s => ⟨fun hr hmode hns hbpp => ?_,
    reportsFirstFailure_of_failsFirst _ _ s (exec_align m s) (alignResult_failsFirst m)⟩
  obtain ⟨t, ht⟩ := exists_tmOf_eq_some m.tileMode hmode
  rw [exec_align, alignResult_of_legal m t hr ht hns hbpp, answer_ok, alignWords_eq, alignsMacro_base_profile,
    macroPitchAlign_profile, slicesPerSplit_profile, ← codeThickness_tmCode, ← codeAspect_tmCode,
    tmCode_of_tmOf m.tileMode t ht]
  rfl

/-! ### Bank-swapped width -/

theorem exec_bswidth (m : MWord) (pitch : Word) (s : State) :
    exec (.bswidth m pitch) s = .next (answer .bswidth (bswidthResult m pitch) s) := rfl

theorem toNat_pos_of_ne_zero {n : Nat} (v : BitVec n) (h : v ≠ 0#n) : 0 < v.toNat :=
  Nat.pos_of_ne_zero fun hzero => h (BitVec.eq_of_toNat_eq (by simpa using hzero))

/-- R138: the result once the checks are passed. -/
theorem bswidthResult_of_legal (m : MWord) (pitch : Word) (t : TileMode) (hr : m.rsv = 0#3)
    (ht : tmOf m.tileMode = some t) (hns : m.sampleCount ≠ 0#4) (hpitch : pitch ≠ 0#32) (hbpp : m.bpp ≠ 0#8) :
    bswidthResult m pitch =
      .ok [word32 (bankSwappedWidth profile t m.bpp.toNat m.sampleCount.toNat pitch.toNat)] := by
  simp [bswidthResult, hr, ht, hns, hpitch, hbpp]

/-- R138: the five checks in their order. -/
theorem bswidthResult_failsFirst (m : MWord) (pitch : Word) :
    FailsFirst (causes (.bswidth m pitch)) (bswidthResult m pitch) := by
  unfold bswidthResult
  refine failsFirst_ite .illegalCommand Iff.rfl ?_
  split
  · next hmode => exact failsFirst_error .unsupportedTileMode ((tmOf_eq_none_iff _).1 hmode)
  · next t ht =>
    refine failsFirst_pass (not_badMode_of_tmOf m t ht) (failsFirst_ite .unsupportedSampleCount Iff.rfl ?_)
    exact failsFirst_ite .invalidDimensions Iff.rfl (failsFirst_ite .badOperand Iff.rfl (failsFirst_nil _))

/-- The halving loop halves as often as it takes to come below twice the pitch, and no oftener. -/
theorem halve_eq_div (pitch fuel v : Nat) (hpitch : 0 < pitch) (hfuel : v ≤ fuel) :
    ∃ k, halve pitch fuel v = v / 2 ^ k ∧ v / 2 ^ k < 2 * pitch ∧ ∀ j < k, 2 * pitch ≤ v / 2 ^ j := by
  induction fuel generalizing v with
  | zero => exact ⟨0, by simp [halve], by rw [Nat.le_zero.1 hfuel, Nat.zero_div]; omega, nofun⟩
  | succ fuel ih =>
    rw [halve]
    split
    · next hge =>
      obtain ⟨k, hhalve, hlt, hleast⟩ := ih (v >>> 1) (by rw [Nat.shiftRight_one]; omega)
      have hstep : ∀ j, (v >>> 1) / 2 ^ j = v / 2 ^ (j + 1) := fun j => by
        rw [Nat.shiftRight_one, Nat.div_div_eq_div_mul, Nat.pow_succ']
      simp only [hstep] at hhalve hlt hleast
      refine ⟨k + 1, hhalve, hlt, fun j hj => ?_⟩
      cases j with
      | zero => simpa using hge
      | succ j => exact hleast j (by omega)
    · next hlt => exact ⟨0, by simp, by simpa using hlt, nofun⟩

/-- A halving that starts at or above twice the pitch stays at or above the pitch. -/
theorem one_le_of_least_halving (pitch v k : Nat) (hpitch : 0 < pitch) (hv : 1 ≤ v)
    (hleast : ∀ j < k, 2 * pitch ≤ v / 2 ^ j) : 1 ≤ v / 2 ^ k := by
  cases k with
  | zero => simpa using hv
  | succ k =>
    have hlast := hleast k (Nat.lt_succ_self k)
    rw [Nat.pow_succ, ← Nat.div_div_eq_div_mul]
    omega

/-- The slices of R137 for an element of `bpp` bits. -/
def swapSlices (bpp ns : Nat) : Nat := max 1 (ns / (256 / bpp))

/-- The samples R137 counts with: four for a thick mode. -/
def swapSamples (t : TileMode) (ns : Nat) : Nat := if tmThickness t = 4 then 4 else ns

/-- The start value of R137 on the default profile. -/
theorem swapStart_profile (t : TileMode) (bpp ns : Nat) (hpos : 0 < bpp) (hlt : bpp < 256) :
    swapStart profile t bpp ns =
      min (16384 / (swapSamples t ns * tmAspect t * 2 * bpp / swapSlices bpp ns))
        (max (8192 / (swapSamples t ns * (8 * bpp) / swapSlices bpp ns)) (max 1 (128 / bpp) * 32)) := by
  have htile : 2048 / (8 * bpp) = 256 / bpp := Nat.mul_div_mul_left 256 bpp (by decide : 0 < 8)
  have htile_pos : 256 / bpp ≠ 0 := (Nat.div_pos hlt.le hpos).ne'
  have hsamples : (if tmThick t = true then 4 else ns) = swapSamples t ns :=
    if_congr (tmThick_iff_thickness t) rfl rfl
  have hwidth : max 1 (128 / bpp) * 8 * 4 = max 1 (128 / bpp) * 32 := Nat.mul_assoc _ 8 4
  simp only [swapStart, profile, htile, htile_pos, if_false, hsamples, ← hwidth, swapSlices]
  rfl

theorem one_le_swapSlices (bpp ns : Nat) : 1 ≤ swapSlices bpp ns := le_max_left _ _

theorem swapSlices_le (bpp ns : Nat) (hns : 0 < ns) : swapSlices bpp ns ≤ ns := max_le hns (Nat.div_le_self _ _)

/-- The samples of a slice have at most 512 bits. -/
theorem samples_mul_bpp_le (bpp ns : Nat) (hpos : 0 < bpp) (hlt : bpp < 256) : ns * bpp ≤ 512 * swapSlices bpp ns := by
  have htile : 0 < 256 / bpp := Nat.div_pos hlt.le hpos
  have hslices : ns / (256 / bpp) + 1 ≤ 2 * swapSlices bpp ns := by
    have : ns / (256 / bpp) ≤ swapSlices bpp ns := le_max_right _ _
    have := one_le_swapSlices bpp ns
    omega
  calc ns * bpp ≤ (256 / bpp * (ns / (256 / bpp) + 1)) * bpp :=
        Nat.mul_le_mul_right _ (Nat.lt_mul_div_succ ns htile).le
    _ ≤ (256 / bpp * (2 * swapSlices bpp ns)) * bpp :=
        Nat.mul_le_mul_right _ (Nat.mul_le_mul_left _ hslices)
    _ = 2 * swapSlices bpp ns * (256 / bpp * bpp) := by ring
    _ ≤ 2 * swapSlices bpp ns * 256 := Nat.mul_le_mul_left _ (Nat.div_mul_le_self 256 bpp)
    _ = 512 * swapSlices bpp ns := by ring

theorem tmAspect_bounds (t : TileMode) : 1 ≤ tmAspect t ∧ tmAspect t ≤ 4 := by cases t <;> decide

theorem tmAspect_of_thick (t : TileMode) (h : tmThickness t = 4) : tmAspect t = 1 := by
  revert h
  cases t <;> decide

/-- `heightBytes` of R137 is at least 1, and at most 4096. -/
theorem heightBytes_bounds (t : TileMode) (bpp ns : Nat) (hpos : 0 < bpp) (hlt : bpp < 256) (hns : 0 < ns)
    (hns' : ns < 16) :
    swapSlices bpp ns ≤ swapSamples t ns * tmAspect t * 2 * bpp ∧
      swapSamples t ns * tmAspect t * 2 * bpp ≤ swapSlices bpp ns * 4096 := by
  have hone := one_le_swapSlices bpp ns
  have hle := swapSlices_le bpp ns hns
  unfold swapSamples
  split
  · next hthick =>
    have hbyte : bpp = 1 → swapSlices bpp ns = 1 := by
      rintro rfl
      rw [swapSlices, Nat.div_one, Nat.div_eq_of_lt (by omega)]
      rfl
    rw [tmAspect_of_thick t hthick]
    omega
  · obtain ⟨haspect, haspect'⟩ := tmAspect_bounds t
    have hbits := samples_mul_bpp_le bpp ns hpos hlt
    have hregroup : ns * tmAspect t * 2 * bpp = tmAspect t * (2 * (ns * bpp)) := by ring
    have hns_bits : ns ≤ ns * bpp := Nat.le_mul_of_pos_right ns hpos
    have hlower : 2 * (ns * bpp) ≤ tmAspect t * (2 * (ns * bpp)) := Nat.le_mul_of_pos_left _ haspect
    have hupper := Nat.mul_le_mul_right (2 * (ns * bpp)) haspect'
    omega

/-- The start value of R137 is at least 1. -/
theorem one_le_swapStart (t : TileMode) (bpp ns : Nat) (hpos : 0 < bpp) (hlt : bpp < 256) (hns : 0 < ns)
    (hns' : ns < 16) : 1 ≤ swapStart profile t bpp ns := by
  obtain ⟨hlower, hupper⟩ := heightBytes_bounds t bpp ns hpos hlt hns hns'
  have hslices := one_le_swapSlices bpp ns
  have hrow : swapSamples t ns * tmAspect t * 2 * bpp / swapSlices bpp ns ≤ 4096 := Nat.div_le_of_le_mul hupper
  rw [swapStart_profile t bpp ns hpos hlt]
  refine le_min (Nat.div_pos (hrow.trans (by decide)) (Nat.div_pos hlower hslices)) ?_
  exact le_max_of_le_right (Nat.mul_pos (le_max_left 1 _) (by decide))

/-- Settles O35: the width of a bank-swapped mode is its start value after the halving loop. -/
theorem bswidthAnswersTheHalvedWidth : Obligations.BswidthAnswersTheHalvedWidth := by
  refine fun m pitch s => ⟨fun hr hmode hns hpitch hbpp => ?_,
    reportsFirstFailure_of_failsFirst _ _ s (exec_bswidth m pitch s) (bswidthResult_failsFirst m pitch)⟩
  obtain ⟨t, ht⟩ := exists_tmOf_eq_some m.tileMode hmode
  have hbpp_pos := toNat_pos_of_ne_zero m.bpp hbpp
  have hpitch_pos := toNat_pos_of_ne_zero pitch hpitch
  have hns_pos := toNat_pos_of_ne_zero m.sampleCount hns
  rw [exec_bswidth, bswidthResult_of_legal m pitch t hr ht hns hpitch hbpp, answer_ok,
    ← tmCode_of_tmOf m.tileMode t ht, codeSwapped_tmCode, bankSwappedWidth]
  refine ⟨fun hswap => by rw [if_neg hswap]; rfl, fun hswap => ?_⟩
  obtain ⟨k, hhalve, hlt, hleast⟩ := halve_eq_div pitch.toNat _ (swapStart profile t m.bpp.toNat m.sampleCount.toNat)
    hpitch_pos le_rfl
  have hone := one_le_of_least_halving pitch.toNat _ k hpitch_pos
    (one_le_swapStart t _ _ hbpp_pos m.bpp.isLt hns_pos m.sampleCount.isLt) hleast
  have hstart := swapStart_profile t m.bpp.toNat m.sampleCount.toNat hbpp_pos m.bpp.isLt
  rw [swapSamples, ← codeAspect_tmCode, ← codeThickness_tmCode] at hstart
  rw [if_pos hswap, hhalve]
  rw [hstart] at hone hlt hleast ⊢
  exact ⟨k, rfl, hone, hlt, hleast⟩

/-! ### Surface information: the eleven words -/

theorem exec_surfinfo (m : MWord) (width height depth code : Word) (s : State) :
    exec (.surfinfo m width height depth code) s =
      .next (answer .surfinfo (surfinfoResult m width height depth code) s) := rfl

/-- R140: the five checks in their order. -/
theorem surfinfoResult_failsFirst (m : MWord) (width height depth code : Word) :
    FailsFirst (causes (.surfinfo m width height depth code)) (surfinfoResult m width height depth code) := by
  unfold surfinfoResult
  refine failsFirst_ite .illegalCommand Iff.rfl ?_
  split
  · next hcode => exact failsFirst_error .unsupportedFormat ((fmt?_eq_none_iff code).1 hcode)
  · next f hf =>
    refine failsFirst_pass (fun hunknown => by simp [(fmt?_eq_none_iff code).2 hunknown] at hf) ?_
    split
    · next hmode => exact failsFirst_error .unsupportedTileMode ((tmOf_eq_none_iff _).1 hmode)
    · next t ht =>
      refine failsFirst_pass (not_badMode_of_tmOf m t ht) (failsFirst_ite .unsupportedSampleCount Iff.rfl ?_)
      exact failsFirst_ite .invalidDimensions Iff.rfl (failsFirst_nil _)

/-- The SurfaceInfo record of a SURFINFO command with this format and mode (R140). -/
def surfinfoOf (m : MWord) (width height depth : Word) (f : FormatInfo) (t : TileMode) : SurfaceInfo :=
  surfaceInfo profile f t width.toNat height.toNat depth.toNat m.mipLevel.toNat m.dim.toNat (m.isDepthBuffer == 1#1)

/-- R140: the result once the checks are passed. -/
theorem surfinfoResult_of_legal (m : MWord) (width height depth code : Word) (f : FormatInfo) (t : TileMode)
    (hr : m.rsv = 0#3) (hf : fmt? code = some f) (ht : tmOf m.tileMode = some t) (hns : m.sampleCount = 1#4)
    (hw : width ≠ 0#32) (hh : height ≠ 0#32) (hmip : m.mipLevel.toNat ≤ 13) :
    surfinfoResult m width height depth code =
      if (surfinfoOf m width height depth f t).overflows then .error .overflow
      else .ok (surfinfoOf m width height depth f t).words := by
  have hlevel : ¬ 14 ≤ m.mipLevel.toNat := by omega
  simp only [surfinfoResult, hr, hf, ht, hns, hw, hh, hlevel, ne_eq, not_true, if_false, or_self]
  rfl

theorem overflows_iff (r : SurfaceInfo) :
    r.overflows = true ↔
      2 ^ 32 ≤ r.padded.width ∨ 2 ^ 32 ≤ r.padded.height ∨ 2 ^ 32 ≤ r.padded.depth ∨ 2 ^ 64 ≤ r.size := by
  simp only [SurfaceInfo.overflows, Bool.or_eq_true, decide_eq_true_eq, or_assoc]

/-- One dimension of step 1, as the statement writes it (R142). -/
theorem mipDim_eq (v mip : Nat) :
    mipDim v mip = if 0 < mip then nextPow2 (max 1 (v / 2 ^ mip)) else max 1 (v / 2 ^ mip) := by
  rw [mipDim, Nat.shiftRight_eq_div_pow, ← ite_not]
  exact if_congr Nat.pos_iff_ne_zero.symm rfl rfl

/-! ### Step 5 -/

theorem aligns_depth (hw : Config.Profile) (t : TileMode) (bpp ns : Nat) :
    (aligns hw t bpp ns).depth = tmThickness t := by
  unfold aligns
  split
  · unfold alignsLinear
    split <;> rfl
  · rfl
  · rfl

/-- The bank-swap raise changes `pitchAlign` alone (R145). -/
theorem raisedAligns_eq (hw : Config.Profile) (em : TileMode) (bpp ns width : Nat) :
    raisedAligns hw em bpp ns width =
      { aligns hw em bpp ns with
        pitch := if tmSwapped em then max (aligns hw em bpp ns).pitch (bankSwappedWidth hw em bpp ns width)
          else (aligns hw em bpp ns).pitch } := by
  unfold raisedAligns
  split <;> rfl

theorem nextPow2_two_pow (k : Nat) : nextPow2 (2 ^ k) = 2 ^ k := by
  rw [nextPow2_eq_two_pow_clog, Nat.clog_pow _ _ one_lt_two]

/-- Rounding a power of two up to a multiple of 4 gives a power of two. -/
theorem exists_alignUp_two_pow (k : Nat) : ∃ l, alignUp (2 ^ k) 4 = 2 ^ l := by
  match k with
  | 0 => exact ⟨2, rfl⟩
  | 1 => exact ⟨2, rfl⟩
  | k + 2 =>
    have hfour : 2 ^ (k + 2) = 4 * 2 ^ k := by rw [Nat.pow_add, Nat.mul_comm]
    exact ⟨k + 2, by rw [alignUp, hfour, ceilDiv_mul_left 4 _ (by decide), Nat.mul_comm]⟩

/-- Above level 0 the depth of step 1 is a power of two. -/
theorem exists_mipDim_two_pow (v mip : Nat) (h : 0 < mip) : ∃ k, mipDim v mip = 2 ^ k :=
  ⟨_, (if_neg h.ne').trans (nextPow2_eq_two_pow_clog _)⟩

/-- The padded depth before the last line of step 5 (R146). -/
def padDepth (em : TileMode) (d : Nat) : Nat := if tmThickness em = 4 then alignUp d 4 else d

/-- The last line of step 5 changes nothing: above level 0 the depth is a power of two already (R146). -/
theorem nextPow2_padDepth (em : TileMode) (v mip : Nat) (h : 0 < mip) :
    nextPow2 (padDepth em (mipDim v mip)) = padDepth em (mipDim v mip) := by
  obtain ⟨k, hk⟩ := exists_mipDim_two_pow v mip h
  rw [hk, padDepth]
  split
  · obtain ⟨l, hl⟩ := exists_alignUp_two_pow k
    rw [hl, nextPow2_two_pow]
  · exact nextPow2_two_pow k

/-- R146: what step 5 makes of a depth. -/
theorem padDims_depth (em : TileMode) (dim v mip : Nat) (al : Aligns) (d : Dims) (hal : al.depth = tmThickness em)
    (hd : d.depth = mipDim v mip) : (padDims em dim mip al d).depth = padDepth em d.depth := by
  have hthick : (if 1 < tmThickness em then alignUp d.depth al.depth else d.depth) = padDepth em d.depth := by
    rw [padDepth, hal]
    cases em <;> rfl
  simp only [padDims, hthick]
  split
  · next h => rw [hd, nextPow2_padDepth em v mip h.2]
  · rfl

/-- The record of SURFINFO on the dimensions `w`, `h` and `d` of step 1 (R144 to R147). -/
theorem surfinfoOf_eq (m : MWord) (width height depth : Word) (f : FormatInfo) (t : TileMode) (w h d : Nat)
    (hw : w = mipElems width.toNat m.mipLevel.toNat f.isBlockCompressed)
    (hh : h = mipElems height.toNat m.mipLevel.toNat f.isBlockCompressed)
    (hd : d = mipDim depth.toNat m.mipLevel.toNat) :
    let em := resolve profile ⟨f.bitsPerPixel, m.mipLevel.toNat, w, h, d, 1, m.isDepthBuffer == 1#1⟩ t
    let al := aligns profile em f.bitsPerPixel 1
    let pa := if tmSwapped em then max al.pitch (bankSwappedWidth profile em f.bitsPerPixel 1 w) else al.pitch
    let padded : Dims := ⟨alignUp w pa, alignUp h al.height, padDepth em d⟩
    surfinfoOf m width height depth f t =
      ⟨padded, f.bitsPerPixel, surfSize padded 1 f.bitsPerPixel, em, { al with pitch := pa }⟩ := by
  subst hw hh hd
  intro em al pa padded
  have hal := raisedAligns_eq profile em f.bitsPerPixel 1 (mipElems width.toNat m.mipLevel.toNat f.isBlockCompressed)
  have hpadded : padDims em m.dim.toNat m.mipLevel.toNat { al with pitch := pa }
      (mipDims width.toNat height.toNat depth.toNat m.mipLevel.toNat f.isBlockCompressed) = padded := by
    have hdepth := padDims_depth em m.dim.toNat depth.toNat m.mipLevel.toNat { al with pitch := pa }
      (mipDims width.toNat height.toNat depth.toNat m.mipLevel.toNat f.isBlockCompressed)
      (aligns_depth profile em f.bitsPerPixel 1) rfl
    exact congrArg (Dims.mk _ _) hdepth
  rw [← hpadded]
  unfold surfinfoOf surfaceInfo
  simp only [mipDims]
  rw [hal]

/-- The eleven words, the size as its two halves (R67). -/
theorem SurfaceInfo.words_eq (r : SurfaceInfo) :
    r.words =
      [word32 r.padded.width, word32 r.padded.height, word32 r.padded.depth, word32 r.bpp, word32 r.size,
        word32 (r.size / 2 ^ 32), word32 (tmCode r.mode), word32 r.al.base, word32 r.al.pitch, word32 r.al.height,
        word32 r.al.depth] := by
  rw [← Nat.shiftRight_eq_div_pow]
  rfl

/-- Settles O36: the record is that of `surfinfoOf_eq`, and its words are answered unless it overflows. -/
theorem surfinfoAnswersTheGeometry : Obligations.SurfinfoAnswersTheGeometry := by
  refine fun m width height depth code s => ⟨fun hr hns hwidth hheight hmip f t hf ht => ?_,
    reportsFirstFailure_of_failsFirst _ _ s (exec_surfinfo m width height depth code s)
      (surfinfoResult_failsFirst m width height depth code)⟩
  intro mip bpp shrink elems w h d em al pa pitch ph pd size
  have hshrink (v : Nat) : shrink v = mipDim v mip := (mipDim_eq v mip).symm
  have helems (v : Nat) : elems v = mipElems v mip f.isBlockCompressed := by
    simp only [elems, hshrink]
    rfl
  have hrecord : surfinfoOf m width height depth f t = ⟨⟨pitch, ph, pd⟩, bpp, size, em, { al with pitch := pa }⟩ := by
    have hsize : surfSize ⟨pitch, ph, pd⟩ 1 bpp = size := by rw [surfSize, Nat.mul_one]; rfl
    rw [← hsize]
    exact surfinfoOf_eq m width height depth f t w h d (helems _) (helems _) (hshrink _)
  have hover := overflows_iff (surfinfoOf m width height depth f t)
  rw [exec_surfinfo, surfinfoResult_of_legal m width height depth code f t hr hf ht hns hwidth hheight hmip]
  rw [hrecord] at hover ⊢
  refine ⟨fun hpitch hph hpd hsize => ?_, fun hbig => ?_⟩
  · have hnot := mt hover.1 (by simp only [not_or, not_le]; exact ⟨hpitch, hph, hpd, hsize⟩)
    rw [if_neg hnot, answer_ok, SurfaceInfo.words_eq]
    rfl
  · rw [if_pos (hover.2 hbig), answer_error]
    rfl

/-! ### What holds of every OK response of SURFINFO -/

/-- An OK response of a command that ends with `answer` has the words of its result. -/
theorem eq_ok_of_answer_status (op : Op) (r : Except Status (List Word)) (s : State)
    (h : (answer op r s).rsp.status = 0x00#8) : r = .ok (answer op r s).rsp.words := by
  cases r with
  | error e => exact absurd h e.code_ne_ok
  | ok ws => rfl

/-- What SURFINFO has checked when its result is a list of words (R140). -/
theorem surfinfoResult_ok (m : MWord) (width height depth code : Word) (f : FormatInfo) (t : TileMode) (ws : List Word)
    (hf : fmt? code = some f) (ht : tmOf m.tileMode = some t)
    (h : surfinfoResult m width height depth code = .ok ws) :
    (surfinfoOf m width height depth f t).overflows = false ∧ ws = (surfinfoOf m width height depth f t).words := by
  simp only [surfinfoResult, hf, ht] at h
  split at h
  · cases h
  · split at h
    · cases h
    · split at h
      · cases h
      · split at h
        · cases h
        · next hfits =>
          cases h
          exact ⟨Bool.eq_false_iff.2 hfits, rfl⟩

theorem mipDim_pos (v mip : Nat) : 1 ≤ mipDim v mip := by
  unfold mipDim
  split
  · exact le_max_left 1 _
  · exact (le_max_left 1 _).trans (le_nextPow2 _)

theorem mipElems_pos (v mip : Nat) (isBC : Bool) : 1 ≤ mipElems v mip isBC := by
  unfold mipElems
  split
  · exact le_max_left 1 _
  · exact mipDim_pos v mip

theorem macroTileDims_pos (t : TileMode) : 0 < (macroTileDims profile t).1 ∧ 0 < (macroTileDims profile t).2 := by
  cases t <;> decide

/-- No alignment is 0 on the default profile (R133 to R135). -/
theorem aligns_pos (t : TileMode) (bpp ns : Nat) :
    0 < (aligns profile t bpp ns).pitch ∧ 0 < (aligns profile t bpp ns).height := by
  unfold aligns
  split
  · unfold alignsLinear
    split
    · exact ⟨lt_max_of_lt_left (by decide), Nat.one_pos⟩
    · exact ⟨Nat.one_pos, Nat.one_pos⟩
  · exact ⟨lt_max_of_lt_left (by decide), (by decide : 0 < 8)⟩
  · obtain ⟨hwidth, hheight⟩ := macroTileDims_pos t
    exact ⟨lt_max_of_lt_left hwidth, hheight⟩

/-- The bank-swap raise does not lower `pitchAlign` (R145). -/
theorem aligns_pitch_le_raisedAligns (hw : Config.Profile) (em : TileMode) (bpp ns width : Nat) :
    (aligns hw em bpp ns).pitch ≤ (raisedAligns hw em bpp ns width).pitch := by
  rw [raisedAligns_eq]
  dsimp only
  split
  · exact le_max_left _ _
  · exact le_rfl

/-- A value of at least 1 rounded up is not below the alignment. -/
theorem le_alignUp_self (v a : Nat) (hv : 1 ≤ v) (ha : 1 ≤ a) : a ≤ alignUp v a :=
  Nat.le_of_dvd (hv.trans (le_alignUp v a ha)) (dvd_alignUp v a)

theorem le_padDepth (em : TileMode) (d : Nat) : d ≤ padDepth em d := by
  unfold padDepth
  split
  · exact le_alignUp d 4 (by decide)
  · exact le_rfl

/-- `r` is the geometry of a surface with the dimensions `d` of step 1, requested in mode `t` (R149). -/
structure Geometry (f : FormatInfo) (t : TileMode) (d : Dims) (r : SurfaceInfo) : Prop where
  bpp : r.bpp = f.bitsPerPixel
  width : r.padded.width = alignUp d.width r.al.pitch
  height : r.padded.height = alignUp d.height r.al.height
  depth : d.depth ≤ r.padded.depth
  size : r.size = (r.padded.width * r.padded.height * r.padded.depth * r.bpp + 7) / 8
  pitchAlign : 1 ≤ r.al.pitch
  heightAlign : 1 ≤ r.al.height
  depthAlign : r.al.depth = tmThickness r.mode
  family : familyRank (tmFamily r.mode) ≤ familyRank (tmFamily t)

theorem surfSize_eq (p : Dims) (bpp : Nat) : surfSize p 1 bpp = (p.width * p.height * p.depth * bpp + 7) / 8 := by
  rw [surfSize, Nat.mul_one, Nat.mul_comm p.height]
  rfl

theorem geometry_surfinfoOf (m : MWord) (width height depth : Word) (f : FormatInfo) (t : TileMode) :
    Geometry f t (mipDims width.toNat height.toNat depth.toNat m.mipLevel.toNat f.isBlockCompressed)
      (surfinfoOf m width height depth f t) := by
  have hpos := aligns_pos (surfinfoOf m width height depth f t).mode f.bitsPerPixel 1
  have hraised : (surfinfoOf m width height depth f t).al = raisedAligns profile _ f.bitsPerPixel 1 _ := rfl
  have hdepthAlign : (surfinfoOf m width height depth f t).al.depth =
      tmThickness (surfinfoOf m width height depth f t).mode := by
    rw [hraised, raisedAligns_eq]
    exact aligns_depth profile _ f.bitsPerPixel 1
  have hdepth : (surfinfoOf m width height depth f t).padded.depth = padDepth _ (mipDim depth.toNat m.mipLevel.toNat) :=
    padDims_depth _ m.dim.toNat depth.toNat m.mipLevel.toNat _ _ hdepthAlign rfl
  exact {
    bpp := rfl
    width := rfl
    height := rfl
    depth := hdepth ▸ le_padDepth _ _
    size := surfSize_eq _ _
    pitchAlign := hpos.1.trans_le (aligns_pitch_le_raisedAligns profile _ f.bitsPerPixel 1 _)
    heightAlign := by
      rw [hraised, raisedAligns_eq]
      exact hpos.2
    depthAlign := hdepthAlign
    family := (simplifies_resolve profile _ t).family_le }

/-- No format has more than 128 bits per element (R94). -/
theorem bitsPerPixel_le (c : Word) (f : FormatInfo) (h : fmt? c = some f) : f.bitsPerPixel ≤ 128 :=
  (by decide : ∀ f ∈ formatTable, f.bitsPerPixel ≤ 128) f (List.mem_of_find?_eq_some h)

theorem toNat_word32 (v : Nat) (h : v < 2 ^ 32) : (word32 v).toNat = v := by
  rw [word32, BitVec.toNat_ofNat, Nat.mod_eq_of_lt h]

/-- The two halves of a 64-bit result (R67). -/
theorem word32_halves (v : Nat) (h : v < 2 ^ 64) :
    (word32 v).toNat + 2 ^ 32 * (word32 (v / 2 ^ 32)).toNat = v := by
  simp only [word32, BitVec.toNat_ofNat]
  omega

theorem tmCode_le (t : TileMode) : tmCode t ≤ 16 := by cases t <;> decide

theorem tmThickness_le (t : TileMode) : tmThickness t ≤ 4 := by cases t <;> decide

/-- No result word but the base alignment is cut off: an alignment fits because what is padded to it does (R147). -/
theorem Geometry.toNat_words {f : FormatInfo} {t : TileMode} {d : Dims} {r : SurfaceInfo} (hg : Geometry f t d r)
    (hfits : r.overflows = false) (hbpp : f.bitsPerPixel ≤ 128) (hw : 1 ≤ d.width) (hh : 1 ≤ d.height) :
    (word32 r.padded.width).toNat = r.padded.width ∧ (word32 r.padded.height).toNat = r.padded.height ∧
      (word32 r.padded.depth).toNat = r.padded.depth ∧ (word32 r.bpp).toNat = r.bpp ∧
      (word32 r.size).toNat + 2 ^ 32 * (word32 (r.size / 2 ^ 32)).toNat = r.size ∧
      (word32 (tmCode r.mode)).toNat = tmCode r.mode ∧ (word32 r.al.pitch).toNat = r.al.pitch ∧
      (word32 r.al.height).toNat = r.al.height ∧ (word32 r.al.depth).toNat = r.al.depth := by
  have hover := mt (overflows_iff r).2 (Bool.eq_false_iff.1 hfits)
  simp only [not_or, not_le] at hover
  obtain ⟨hpitch, hheight, hdepth, hsize⟩ := hover
  have hpa : r.al.pitch ≤ r.padded.width := hg.width ▸ le_alignUp_self _ _ hw hg.pitchAlign
  have hha : r.al.height ≤ r.padded.height := hg.height ▸ le_alignUp_self _ _ hh hg.heightAlign
  have hmode := tmCode_le r.mode
  have hthick := tmThickness_le r.mode
  rw [← hg.bpp] at hbpp
  rw [← hg.depthAlign] at hthick
  refine ⟨toNat_word32 _ hpitch, toNat_word32 _ hheight, toNat_word32 _ hdepth, ?_, word32_halves _ hsize, ?_, ?_, ?_,
    ?_⟩ <;> exact toNat_word32 _ (by omega)

/-- Settles O37: the words of an OK response are those of a geometry that fits them. -/
theorem surfinfoResultIsAligned : Obligations.SurfinfoResultIsAligned := by
  intro m width height depth code s u f t hexec hstatus hf ht dims
  cases hexec
  have hok := eq_ok_of_answer_status _ _ s hstatus
  obtain ⟨hfits, hwords⟩ := surfinfoResult_ok m width height depth code f t _ hf ht hok
  have hg : Geometry f t dims _ := geometry_surfinfoOf m width height depth f t
  obtain ⟨hpitch, hheight, hdepth, hbpp, hsize, hmode, hpa, hha, hda⟩ :=
    hg.toNat_words hfits (bitsPerPixel_le code f hf) (mipElems_pos _ _ _) (mipElems_pos _ _ _)
  refine ⟨_, _, _, _, _, _, _, _, _, _, _, (surfinfoOf m width height depth f t).mode,
    hwords.trans (SurfaceInfo.words_eq _), ?_⟩
  rw [hpitch, hheight, hdepth, hbpp, hsize, hmode, hpa, hha, hda]
  exact ⟨Nat.mod_eq_zero_of_dvd (hg.width ▸ dvd_alignUp _ _), Nat.mod_eq_zero_of_dvd (hg.height ▸ dvd_alignUp _ _),
    hg.pitchAlign, hg.heightAlign, hg.size, rfl, hg.depthAlign, hg.family, hg.width ▸ le_alignUp _ _ hg.pitchAlign,
    hg.height ▸ le_alignUp _ _ hg.heightAlign, hg.depth⟩

end Sys2Proof.Machine

/-! SUPPORT. The proofs of the statements of spec/43_address.md: ADDRLIN (R160, R161), PIXIDX (R163, R164), ADDRMIC (R165,
R166), PIPEBANK (R168 to R174) and ADDRMAC (R176, R177), and that the spans of distinct elements are disjoint (R178). -/

namespace Sys2Proof.Machine

open Sys2Proof

/-! ### Offsets as responses (R160, R165, R176) -/

/-- A command that ends with a byte offset answers it as two words when it is below 2^64, and Overflow otherwise (R219). -/
theorem next_answer_offsetResult (op : Op) (off : Nat) (s : State) :
    (off < 2 ^ 64 → (.next (answer op (offsetResult off) s) : Host.Outcome State Fault Refusal) =
      .next (okResponse op.code [BitVec.ofNat 32 off, BitVec.ofNat 32 (off / 2 ^ 32)] s)) ∧
    (2 ^ 64 ≤ off → (.next (answer op (offsetResult off) s) : Host.Outcome State Fault Refusal) =
      .next (errResponse op.code 0x08#8 s)) := by
  refine ⟨fun hlt => ?_, fun hle => ?_⟩
  · rw [offsetResult, if_neg (Nat.not_le.2 hlt), answer_ok, words64, Nat.shiftRight_eq_div_pow]
    rfl
  · rw [offsetResult, if_pos hle, answer_error]
    rfl

/-! ### Linear offsets -/

theorem exec_addrlin (m : MWord) (a : AddrArgs) (s : State) :
    exec (.addrlin m a) s = .next (answer .addrlin (addrlinResult m a) s) := rfl

/-- R160: the two checks in their order. -/
theorem addrlinResult_failsFirst (m : MWord) (a : AddrArgs) : FailsFirst (causes (.addrlin m a)) (addrlinResult m a) :=
  failsFirst_ite .illegalCommand Iff.rfl (failsFirst_ite .badOperand Iff.rfl (failsFirst_nil _))

/-- R160: the result once the checks are passed. -/
theorem addrlinResult_of_legal (m : MWord) (a : AddrArgs) (hr : m.rsv = 0#3) (hbpp : m.bpp ≠ 0#8) :
    addrlinResult m a =
      offsetResult (addrLinear a.x.toNat a.y.toNat a.slice.toNat a.sample.toNat a.depthSlices.toNat m.bpp.toNat
        a.pitch.toNat a.height.toNat) := by
  rw [addrlinResult, if_neg (not_not.2 hr), if_neg hbpp]

/-- Settles O38: the offset is `addrLinear` as R161 writes it. -/
theorem addrlinAnswersTheLinearOffset : Obligations.AddrlinAnswersTheLinearOffset := by
  refine fun m a s => ⟨fun hr hbpp => ?_,
    reportsFirstFailure_of_failsFirst _ _ s (exec_addrlin m a s) (addrlinResult_failsFirst m a)⟩
  rw [exec_addrlin, addrlinResult_of_legal m a hr hbpp]
  exact next_answer_offsetResult .addrlin _ s

/-! ### The pixel index -/

theorem bitOf_eq (v i : Nat) : bitOf v i = v / 2 ^ i % 2 := by rw [bitOf, Nat.shiftRight_eq_div_pow]

theorem bitOf_lt (v i : Nat) : bitOf v i < 2 := Nat.mod_lt _ two_pos

/-- The low three bits of a coordinate, put together again. -/
theorem mod_eight_eq_bits (v : Nat) : v % 8 = bitOf v 0 + 2 * bitOf v 1 + 4 * bitOf v 2 := by
  simp only [bitOf_eq]
  omega

theorem bitOf_mod_eight (v i : Nat) (hi : i < 3) : bitOf (v % 8) i = bitOf v i := by
  interval_cases i <;> simp only [bitOf_eq] <;> omega

/-- The bit of a coordinate pair that an entry of `pixelOrder` names. -/
def namedBit (x y : Nat) (p : Bool × Nat) : Nat := bitOf (if p.1 then x else y) p.2

theorem gatherBits_cons (x y : Nat) (p : Bool × Nat) (ps : List (Bool × Nat)) :
    gatherBits x y (p :: ps) = namedBit x y p + 2 * gatherBits x y ps := rfl

theorem gatherBits_lt (x y : Nat) (ps : List (Bool × Nat)) : gatherBits x y ps < 2 ^ ps.length := by
  induction ps with
  | nil => exact one_pos
  | cons p ps ih =>
    have hbit : namedBit x y p < 2 := bitOf_lt _ _
    rw [gatherBits_cons, List.length_cons, Nat.pow_succ]
    omega

/-- The gathered number determines every bit that was gathered, and nothing else of the coordinates. -/
theorem gatherBits_eq_iff (x y x' y' : Nat) (ps : List (Bool × Nat)) :
    gatherBits x y ps = gatherBits x' y' ps ↔ ∀ p ∈ ps, namedBit x y p = namedBit x' y' p := by
  induction ps with
  | nil => simp [gatherBits]
  | cons p ps ih =>
    have hbit : namedBit x y p < 2 := bitOf_lt _ _
    have hbit' : namedBit x' y' p < 2 := bitOf_lt _ _
    rw [gatherBits_cons, gatherBits_cons, List.forall_mem_cons, ← ih]
    omega

/-- The six bits an index within a micro-tile is made of (R164). -/
def microTileBits : List (Bool × Nat) := [(true, 0), (true, 1), (true, 2), (false, 0), (false, 1), (false, 2)]

/-- Every row of R164's table names each of the six bits once. -/
theorem pixelOrder_perm (bpp : Nat) : (pixelOrder bpp).Perm microTileBits := by
  unfold pixelOrder
  split_ifs <;> decide

theorem gatherBits_pixelOrder_lt (x y bpp : Nat) : gatherBits x y (pixelOrder bpp) < 64 := by
  have hlt := gatherBits_lt x y (pixelOrder bpp)
  rwa [(pixelOrder_perm bpp).length_eq] at hlt

/-- Two coordinate pairs have the same index in the micro-tile exactly when they agree modulo 8. -/
theorem gatherBits_pixelOrder_eq_iff (x y x' y' bpp : Nat) :
    gatherBits x y (pixelOrder bpp) = gatherBits x' y' (pixelOrder bpp) ↔ x % 8 = x' % 8 ∧ y % 8 = y' % 8 := by
  have hbits : (∀ p ∈ pixelOrder bpp, namedBit x y p = namedBit x' y' p) ↔
      ∀ p ∈ microTileBits, namedBit x y p = namedBit x' y' p := by
    simp only [(pixelOrder_perm bpp).mem_iff]
  rw [gatherBits_eq_iff, hbits]
  simp only [microTileBits, List.forall_mem_cons, List.not_mem_nil, namedBit, bitOf_eq, if_true, Bool.false_eq_true,
    if_false, false_imp_iff, implies_true, and_true]
  omega

theorem sliceBits_zero (t : Nat) : sliceBits 0 t = 0 := by simp [sliceBits, bitOf]

theorem sliceBits_mod_eight (z t : Nat) : sliceBits (z % 8) t = sliceBits z t := by
  simp only [sliceBits, bitOf_mod_eight z _ (by decide : 0 < 3), bitOf_mod_eight z _ (by decide : 1 < 3),
    bitOf_mod_eight z _ (by decide : 2 < 3)]

theorem pixelIndex_mod_eight (x y z bpp t : Nat) :
    pixelIndex x y z bpp t = pixelIndex (x % 8) (y % 8) (z % 8) bpp t := by
  rw [pixelIndex, pixelIndex, sliceBits_mod_eight, (gatherBits_pixelOrder_eq_iff x y (x % 8) (y % 8) bpp).2 (by simp)]

theorem pixelIndex_slice_zero (x y bpp t : Nat) : pixelIndex x y 0 bpp t = gatherBits x y (pixelOrder bpp) := by
  rw [pixelIndex, sliceBits_zero, Nat.add_zero]

/-- The index within a micro-tile of a coordinate pair below 8. -/
def microTileIndex (bpp : Nat) (p : Fin 8 × Fin 8) : Fin 64 :=
  ⟨gatherBits p.1 p.2 (pixelOrder bpp), gatherBits_pixelOrder_lt p.1 p.2 bpp⟩

/-- Injective between sets of 64 elements, so a bijection. -/
theorem microTileIndex_bijective (bpp : Nat) : Function.Bijective (microTileIndex bpp) := by
  rw [Fintype.bijective_iff_injective_and_card]
  refine ⟨fun p q hpq => ?_, rfl⟩
  obtain ⟨hx, hy⟩ := (gatherBits_pixelOrder_eq_iff _ _ _ _ bpp).1 (congrArg Fin.val hpq)
  ext
  · rwa [Nat.mod_eq_of_lt p.1.isLt, Nat.mod_eq_of_lt q.1.isLt] at hx
  · rwa [Nat.mod_eq_of_lt p.2.isLt, Nat.mod_eq_of_lt q.2.isLt] at hy

/-- Settles O40: the index in slice 0 is `microTileIndex`. -/
theorem pixelIndexIsBijective : Obligations.PixelIndexIsBijective := by
  refine fun bpp t => ⟨fun x y z => pixelIndex_mod_eight x y z bpp t, fun x y _ _ => ?_, fun v hv => ?_⟩
  · rw [pixelIndex_slice_zero]
    exact gatherBits_pixelOrder_lt x y bpp
  · obtain ⟨⟨x, y⟩, hxy, hunique⟩ := (microTileIndex_bijective bpp).existsUnique ⟨v, hv⟩
    refine ⟨x, y, x.isLt, y.isLt, ?_, fun x' y' hx' hy' hv' => ?_⟩
    · rw [pixelIndex_slice_zero]
      exact congrArg Fin.val hxy
    · rw [pixelIndex_slice_zero] at hv'
      have hpair := hunique (⟨x', hx'⟩, ⟨y', hy'⟩) (Fin.ext hv')
      exact ⟨congrArg (fun p => p.1.val) hpair, congrArg (fun p => p.2.val) hpair⟩

/-- The number six bits make, the first one lowest. -/
theorem gatherBits_six (x y : Nat) (p₀ p₁ p₂ p₃ p₄ p₅ : Bool × Nat) :
    gatherBits x y [p₀, p₁, p₂, p₃, p₄, p₅] =
      namedBit x y p₀ + 2 * namedBit x y p₁ + 4 * namedBit x y p₂ + 8 * namedBit x y p₃ + 16 * namedBit x y p₄ +
        32 * namedBit x y p₅ := by
  simp only [gatherBits, namedBit]
  omega

/-- R164's table, row by row: bits 0 to 5 of the index. The rows for 32, for 96 and for any other `bpp` agree. -/
theorem gatherBits_pixelOrder (x y bpp : Nat) :
    gatherBits x y (pixelOrder bpp) =
      if bpp = 8 then bitOf x 0 + 2 * bitOf x 1 + 4 * bitOf x 2 + 8 * bitOf y 1 + 16 * bitOf y 0 + 32 * bitOf y 2
      else if bpp = 16 then bitOf x 0 + 2 * bitOf x 1 + 4 * bitOf x 2 + 8 * bitOf y 0 + 16 * bitOf y 1 + 32 * bitOf y 2
      else if bpp = 64 then bitOf x 0 + 2 * bitOf y 0 + 4 * bitOf x 1 + 8 * bitOf x 2 + 16 * bitOf y 1 + 32 * bitOf y 2
      else if bpp = 128 then bitOf y 0 + 2 * bitOf x 0 + 4 * bitOf x 1 + 8 * bitOf x 2 + 16 * bitOf y 1 + 32 * bitOf y 2
      else bitOf x 0 + 2 * bitOf x 1 + 4 * bitOf y 0 + 8 * bitOf x 2 + 16 * bitOf y 1 + 32 * bitOf y 2 := by
  have horder : pixelOrder bpp =
      if bpp = 8 then [(true, 0), (true, 1), (true, 2), (false, 1), (false, 0), (false, 2)]
      else if bpp = 16 then [(true, 0), (true, 1), (true, 2), (false, 0), (false, 1), (false, 2)]
      else if bpp = 64 then [(true, 0), (false, 0), (true, 1), (true, 2), (false, 1), (false, 2)]
      else if bpp = 128 then [(false, 0), (true, 0), (true, 1), (true, 2), (false, 1), (false, 2)]
      else [(true, 0), (true, 1), (false, 0), (true, 2), (false, 1), (false, 2)] := by
    grind [pixelOrder]
  rw [horder]
  split_ifs <;> exact gatherBits_six _ _ _ _ _ _ _ _

/-- The slice bits of the index: two when the mode is thick (R164). -/
theorem sliceBits_tmThickness (z : Nat) (t : TileMode) :
    sliceBits z (tmThickness t) = if tmThickness t = 4 then 64 * bitOf z 0 + 128 * bitOf z 1 else 0 := by
  cases t <;> rfl

theorem exec_pixidx (m : MWord) (x y z : Word) (s : State) :
    exec (.pixidx m x y z) s = .next (answer .pixidx (pixidxResult m x y z) s) := rfl

/-- R163: the three checks in their order. -/
theorem pixidxResult_failsFirst (m : MWord) (x y z : Word) :
    FailsFirst (causes (.pixidx m x y z)) (pixidxResult m x y z) := by
  unfold pixidxResult
  refine failsFirst_ite .illegalCommand Iff.rfl ?_
  split
  · next hmode => exact failsFirst_error .unsupportedTileMode ((tmOf_eq_none_iff _).1 hmode)
  · next t ht =>
    exact failsFirst_pass (not_badMode_of_tmOf m t ht) (failsFirst_ite .badOperand Iff.rfl (failsFirst_nil _))

/-- R163: the result once the checks are passed. -/
theorem pixidxResult_of_legal (m : MWord) (x y z : Word) (t : TileMode) (hr : m.rsv = 0#3)
    (ht : tmOf m.tileMode = some t) (hbpp : m.bpp ≠ 0#8) :
    pixidxResult m x y z = .ok [word32 (pixelIndex x.toNat y.toNat z.toNat m.bpp.toNat (tmThickness t))] := by
  simp [pixidxResult, hr, ht, hbpp]

/-- Settles O39: the index is the row of R164's table and the slice bits. -/
theorem pixidxAnswersThePermutedBits : Obligations.PixidxAnswersThePermutedBits := by
  refine fun m x y z s => ⟨fun hr hmode hbpp => ?_,
    reportsFirstFailure_of_failsFirst _ _ s (exec_pixidx m x y z s) (pixidxResult_failsFirst m x y z)⟩
  obtain ⟨t, ht⟩ := exists_tmOf_eq_some m.tileMode hmode
  rw [exec_pixidx, pixidxResult_of_legal m x y z t hr ht hbpp, answer_ok, pixelIndex, gatherBits_pixelOrder,
    sliceBits_tmThickness, ← tmCode_of_tmOf m.tileMode t ht, codeThickness_tmCode]
  simp only [bitOf_eq, ← BitVec.toNat_inj]
  rfl

/-! ### Micro-tiled offsets -/

theorem exec_addrmic (m : MWord) (a : AddrArgs) (s : State) :
    exec (.addrmic m a) s = .next (answer .addrmic (addrmicResult m a) s) := rfl

theorem tmFamily_micro_iff_code (t : TileMode) : tmFamily t = .micro ↔ tmCode t = 2 ∨ tmCode t = 3 := by
  cases t <;> decide

theorem modeOutside_micro_iff (m : MWord) (t : TileMode) (h : tmOf m.tileMode = some t) :
    modeOutside m 2 3 ↔ tmFamily t ≠ .micro := by
  rw [ne_eq, tmFamily_micro_iff_code, tmCode_of_tmOf m.tileMode t h, modeOutside]
  omega

/-- R165: the three checks in their order. -/
theorem addrmicResult_failsFirst (m : MWord) (a : AddrArgs) :
    FailsFirst (causes (.addrmic m a)) (addrmicResult m a) := by
  unfold addrmicResult
  refine failsFirst_ite .illegalCommand Iff.rfl ?_
  split
  · next hmode => exact failsFirst_error .unsupportedTileMode ((tmOf_eq_none_iff _).1 hmode)
  · next t ht =>
    refine failsFirst_pass (not_badMode_of_tmOf m t ht) ?_
    exact failsFirst_ite .badOperand (or_congr_left (modeOutside_micro_iff m t ht)) (failsFirst_nil _)

/-- R165: the result once the checks are passed. -/
theorem addrmicResult_of_legal (m : MWord) (a : AddrArgs) (t : TileMode) (hr : m.rsv = 0#3)
    (ht : tmOf m.tileMode = some t) (hmicro : tmFamily t = .micro) (hbpp : m.bpp ≠ 0#8) :
    addrmicResult m a =
      offsetResult (addrMicro a.x.toNat a.y.toNat a.slice.toNat m.bpp.toNat a.pitch.toNat a.height.toNat t) := by
  simp [addrmicResult, hr, ht, hmicro, hbpp]

/-- R166 in products and quotients: a micro-tile is 8 bytes per bit of an element. -/
theorem addrMicro_eq (x y slice bpp pitch height : Nat) (t : TileMode) :
    addrMicro x y slice bpp pitch height t =
      bpp * pixelIndex x y slice bpp (tmThickness t) / 8 + tmThickness t * (8 * bpp) * (x / 8 + pitch / 8 * (y / 8)) +
        slice / tmThickness t * ((pitch * height * tmThickness t * bpp + 7) / 8) := by
  have htile : ceilDiv (bpp * 64) 8 = 8 * bpp := by
    rw [show bpp * 64 = 8 * (8 * bpp) by ring, ceilDiv_mul_left 8 _ (by decide)]
  simp only [addrMicro, Nat.shiftRight_eq_div_pow, htile]
  rfl

/-- Settles O41: the offset is `addrMicro`, over the thickness of the mode's code. -/
theorem addrmicAnswersTheMicroTiledOffset : Obligations.AddrmicAnswersTheMicroTiledOffset := by
  refine fun m a s => ⟨fun hr hmode hbpp => ?_,
    reportsFirstFailure_of_failsFirst _ _ s (exec_addrmic m a s) (addrmicResult_failsFirst m a)⟩
  have hcode : m.tileMode.toNat = 2 ∨ m.tileMode.toNat = 3 := hmode.imp (congrArg BitVec.toNat) (congrArg BitVec.toNat)
  obtain ⟨t, ht⟩ := exists_tmOf_eq_some m.tileMode (by omega)
  rw [← tmCode_of_tmOf m.tileMode t ht] at hcode ⊢
  rw [exec_addrmic, addrmicResult_of_legal m a t hr ht ((tmFamily_micro_iff_code t).2 hcode) hbpp, codeThickness_tmCode,
    addrMicro_eq]
  exact next_answer_offsetResult .addrmic _ s

/-! ### Pipe and bank -/

/-- What `Profile.wf` requires of the three counts that are powers of two (R8). -/
theorem profileCounts_of_wf (hw : Config.Profile) (h : hw.wf = true) :
    hw.numPipes = 2 ^ hw.numPipeBits ∧ hw.numBanks = 2 ^ hw.numBankBits ∧
      hw.pipeInterleaveBytes = 2 ^ hw.numGroupBits ∧ (hw.numBanks = 4 ∨ hw.numBanks = 8) := by
  simp only [Config.Profile.wf, Bool.and_eq_true, Bool.or_eq_true, beq_iff_eq] at h
  obtain ⟨⟨⟨⟨⟨⟨⟨⟨⟨hpipes, hbanks⟩, hgroup⟩, hcount⟩, -⟩, -⟩, -⟩, -⟩, -⟩, -⟩ := h
  exact ⟨hpipes.symm, hbanks.symm, hgroup.symm, hcount⟩

/-- The entries of R173's table that a profile with `n` banks selects are banks of that profile. -/
theorem bankSwapOrder_lt (n i : Nat) (hn : n = 4 ∨ n = 8) : bankSwapOrder.getD (i &&& (n - 1)) 0 < n := by
  have hbanks_four : ∀ j < 4, bankSwapOrder.getD j 0 < 4 := by decide
  have hbanks_eight : ∀ j < 8, bankSwapOrder.getD j 0 < 8 := by decide
  rcases hn with rfl | rfl
  · exact hbanks_four _ (Nat.and_lt_two_pow i (n := 2) (by decide))
  · exact hbanks_eight _ (Nat.and_lt_two_pow i (n := 3) (by decide))

/-- The bank swap maps banks to banks (R173). -/
theorem bankSwap_lt (hw : Config.Profile) (bank x : Nat) (t : TileMode) (bpp pitch : Nat) (h : hw.wf = true)
    (hbank : bank < hw.numBanks) : bankSwap hw bank x t bpp pitch < hw.numBanks := by
  obtain ⟨-, hpow, -, hcount⟩ := profileCounts_of_wf hw h
  unfold bankSwap
  split
  · have hswap := bankSwapOrder_lt hw.numBanks
      ((macroTileDims hw t).1 * (x / (macroTileDims hw t).1) / bankSwappedWidth hw t bpp 1 pitch) hcount
    rw [hpow] at hbank ⊢
    rw [hpow] at hswap
    exact Nat.xor_lt_two_pow hbank hswap
  · exact hbank

/-- R170: pipe and bank are in range for every profile R8 allows. -/
theorem pipeBank_lt (hw : Config.Profile) (x y slice : Nat) (t : TileMode) (bpp pitch ps bs : Nat) (h : hw.wf = true) :
    (pipeBank hw x y slice t bpp pitch ps bs).pipe < hw.numPipes ∧
      (pipeBank hw x y slice t bpp pitch ps bs).bank < hw.numBanks := by
  obtain ⟨hpipes, hbanks, -, -⟩ := profileCounts_of_wf hw h
  have hpos : 0 < hw.numPipes := hpipes ▸ Nat.two_pow_pos _
  have hpos' : 0 < hw.numBanks := hbanks ▸ Nat.two_pow_pos _
  refine ⟨Nat.mod_lt _ hpos, bankSwap_lt hw _ x t bpp pitch h (Nat.div_lt_of_lt_mul ?_)⟩
  exact Nat.mod_lt _ (Nat.mul_pos hpos hpos')

/-- Settles O44: the results are the fields of `pipeBank`, in range by `pipeBank_lt`. -/
theorem pipeAndBankStayInRange : Obligations.PipeAndBankStayInRange := by
  intro hw x y slice t bpp pitch ps bs h
  obtain ⟨hpipe, hbank⟩ := pipeBank_lt hw x y slice t bpp pitch ps bs h
  exact ⟨rfl, rfl, rfl, rfl, hpipe, hbank⟩

/-! ### Pipe and bank on the default profile -/

theorem wf_profile : profile.wf = true := by decide

/-- A field above the bits of another one. -/
theorem or_shiftLeft_of_lt (lo hi k : Nat) (h : lo < 2 ^ k) : lo ||| (hi <<< k) = lo + 2 ^ k * hi := by
  rw [Nat.or_comm, ← Nat.shiftLeft_add_eq_or_of_lt h, Nat.shiftLeft_eq, Nat.add_comm, Nat.mul_comm]

/-- R168 on the default profile. -/
theorem pipe0_profile (x y : Nat) : pipe0 profile x y = (x / 8 + y / 8) % 2 := by
  rw [pipe0, show profile.numPipes - 1 = 1 from rfl, Nat.and_one_is_mod, Nat.xor_mod_two_eq, Nat.shiftRight_eq_div_pow,
    Nat.shiftRight_eq_div_pow, Nat.add_comm]

/-- R171 on the default profile, which has 4 banks. -/
theorem bank0_profile (x y : Nat) :
    bank0 profile x y = (x / 8 + y / 32) % 2 + 2 * ((x / 16 + y / 16) % 2) := by
  have hbit : ∀ u v : Nat, (u ^^^ v) &&& 1 = (v + u) % 2 := fun u v => by
    rw [Nat.and_one_is_mod, Nat.xor_mod_two_eq, Nat.add_comm]
  have hjoin : ∀ u v : Nat, u % 2 ||| (v <<< 1) = u % 2 + 2 * v := fun u v =>
    or_shiftLeft_of_lt _ v 1 (Nat.mod_lt u two_pos)
  rw [bank0, if_neg (by decide)]
  simp only [hbit, hjoin, Nat.shiftRight_eq_div_pow]
  rfl

/-- `sliceIn * Rotation` of R172 on the default profile, by the code of a `macroTiled` mode. -/
def sliceTurn (c slice : Nat) : Nat :=
  (if codeThickness c = 4 then slice / 4 else slice) * (if c ≤ 11 then 2 else 1)

theorem rotation_profile (t : TileMode) (h : tmMacro t = true) : rotation profile t = if tmCode t ≤ 11 then 2 else 1 := by
  revert h
  cases t <;> decide

/-- R172 on the default profile. -/
theorem combine_profile (p b slice : Nat) (t : TileMode) (ps bs : Nat) (h : tmMacro t = true) :
    combine profile p b slice t ps bs =
      ((p + 2 * b) ^^^ (ps + 2 * bs + sliceTurn (tmCode t) slice)) % 8 := by
  rw [combine, rotation_profile t h, sliceTurn, codeThickness_tmCode, if_congr (tmThick_iff_thickness t) rfl rfl]
  rfl

/-- What R173 XORs into the bank on the default profile, by the code of the mode. -/
def swapMask (c : Nat) (t : TileMode) (bpp pitch x : Nat) : Nat :=
  if codeSwapped c then
    [0, 1, 3, 2].getD (32 / codeAspect c * (x / (32 / codeAspect c)) / bankSwappedWidth profile t bpp 1 pitch % 4) 0
  else 0

/-- R173 on the default profile: of the table of eight only the first four entries are used. -/
theorem bankSwap_profile (bank x : Nat) (t : TileMode) (bpp pitch : Nat) :
    bankSwap profile bank x t bpp pitch = bank ^^^ swapMask (tmCode t) t bpp pitch x := by
  have htable : ∀ i < 4, bankSwapOrder.getD i 0 = [0, 1, 3, 2].getD i 0 := by decide
  have hindex : ∀ i : Nat, i &&& (profile.numBanks - 1) = i % 4 := fun i => Nat.and_two_pow_sub_one_eq_mod i 2
  simp only [bankSwap, swapMask, codeSwapped_tmCode, macroTileDims_profile, codeAspect_tmCode]
  split
  · rw [hindex, htable _ (Nat.mod_lt _ (by decide))]
  · rw [Nat.xor_zero]

/-- R170 on the default profile. -/
theorem pipeBank_profile (x y slice : Nat) (t : TileMode) (bpp pitch ps bs : Nat) (h : tmMacro t = true) :
    pipeBank profile x y slice t bpp pitch ps bs =
      let bp := ((pipe0 profile x y + 2 * bank0 profile x y) ^^^ (ps + 2 * bs + sliceTurn (tmCode t) slice)) % 8
      { pipe0 := pipe0 profile x y
        bank0 := bank0 profile x y
        pipe := bp % 2
        bank := bp / 2 ^^^ swapMask (tmCode t) t bpp pitch x } := by
  rw [pipeBank, combine_profile _ _ slice t ps bs h, bankSwap_profile]
  rfl

/-- R174: the fields of PIPEBANK's result word, where they fit their widths. -/
theorem pipeBankWord_eq (p : PipeBank) (hpipe : p.pipe < 2 ^ 4) (hbank : p.bank < 2 ^ 4) (hpipe0 : p.pipe0 < 2 ^ 4) :
    pipeBankWord p = BitVec.ofNat 32 (p.pipe + 16 * p.bank + 256 * p.pipe0 + 4096 * p.bank0) := by
  rw [pipeBankWord, or_shiftLeft_of_lt _ p.bank 4 hpipe, or_shiftLeft_of_lt _ p.pipe0 8 (by omega),
    or_shiftLeft_of_lt _ p.bank0 12 (by omega)]
  rfl

theorem exec_pipebank (m : MWord) (a : AddrArgs) (s : State) :
    exec (.pipebank m a) s = .next (answer .pipebank (pipebankResult m a) s) := rfl

/-- R174, R176: the five checks PIPEBANK and ADDRMAC share, in their order. -/
theorem macroChecks_failsFirst (m : MWord) (a : AddrArgs) (f : TileMode → Except Status (List Word)) :
    FailsFirst (causes (.pipebank m a)) ((macroChecks m a).bind f) := by
  unfold macroChecks
  rw [apply_ite (Except.bind · f)]
  refine failsFirst_ite .illegalCommand Iff.rfl ?_
  split
  · next hmode => exact failsFirst_error .unsupportedTileMode ((tmOf_eq_none_iff _).1 hmode)
  · next t ht =>
    simp only [apply_ite (Except.bind · f)]
    refine failsFirst_pass (not_badMode_of_tmOf m t ht) (failsFirst_ite .unsupportedSampleCount Iff.rfl ?_)
    refine failsFirst_ite .invalidDimensions Iff.rfl ?_
    exact failsFirst_ite .badOperand (or_congr_left (modeOutside_iff m t ht)) (failsFirst_nil _)

/-- R174, R176: the mode once the checks are passed. -/
theorem macroChecks_of_legal (m : MWord) (a : AddrArgs) (t : TileMode) (hr : m.rsv = 0#3)
    (ht : tmOf m.tileMode = some t) (hns : m.sampleCount = 1#4) (hpitch : a.pitch ≠ 0#32) (hmacro : tmMacro t = true)
    (hbpp : m.bpp ≠ 0#8) (hsample : a.sample = 0#32) : macroChecks m a = .ok t := by
  simp [macroChecks, hr, ht, hns, hpitch, hmacro, hbpp, hsample]

theorem pipebankResult_eq_bind (m : MWord) (a : AddrArgs) :
    pipebankResult m a = (macroChecks m a).bind fun t =>
      .ok [pipeBankWord (pipeBank profile a.x.toNat a.y.toNat a.slice.toNat t m.bpp.toNat a.pitch.toNat
        m.pipeSwizzle.toNat m.bankSwizzle.toNat)] := by
  unfold pipebankResult
  cases macroChecks m a <;> rfl

/-- Settles O42: the four fields are those of `pipeBank` on the default profile. -/
theorem pipebankAnswersPipeAndBank : Obligations.PipebankAnswersPipeAndBank := by
  refine fun m a s t => ⟨fun hr hlo hhi ht hns hpitch hbpp hsample => ?_,
    reportsFirstFailure_of_failsFirst _ _ s (exec_pipebank m a s)
      (pipebankResult_eq_bind m a ▸ macroChecks_failsFirst m a _)⟩
  rw [← tmCode_of_tmOf m.tileMode t ht] at hlo hhi ⊢
  have hmacro := (tmMacro_iff_code t).2 ⟨hlo, hhi⟩
  obtain ⟨hpipe, hbank⟩ := pipeBank_lt profile a.x.toNat a.y.toNat a.slice.toNat t m.bpp.toNat a.pitch.toNat
    m.pipeSwizzle.toNat m.bankSwizzle.toNat wf_profile
  have hpipe0 : pipe0 profile a.x.toNat a.y.toNat < 2 := pipe0_profile _ _ ▸ Nat.mod_lt _ two_pos
  rw [exec_pipebank, pipebankResult_eq_bind, macroChecks_of_legal m a t hr ht hns hpitch hmacro hbpp hsample,
    Except.bind, answer_ok, pipeBankWord_eq _ (hpipe.trans (by decide)) (hbank.trans (by decide))
    (hpipe0.trans (by decide)), pipeBank_profile _ _ _ t _ _ _ _ hmacro, pipe0_profile, bank0_profile]
  rfl

/-! ### Macro-tiled offsets -/

/-- The fields of R177 from bit 0 up: group bits, pipe, bank, and the rest of `total`. -/
theorem interleave_eq (hw : Config.Profile) (total pipe bank : Nat) (hpipe : pipe < 2 ^ hw.numPipeBits)
    (hbank : bank < 2 ^ hw.numBankBits) :
    interleave hw total pipe bank =
      total % 2 ^ hw.numGroupBits + 2 ^ hw.numGroupBits * (pipe + 2 ^ hw.numPipeBits * (bank + 2 ^ hw.numBankBits *
        (total / 2 ^ hw.numGroupBits))) := by
  have hlow : total &&& ((1 <<< hw.numGroupBits) - 1) = total % 2 ^ hw.numGroupBits := by
    rw [Nat.one_shiftLeft, Nat.and_two_pow_sub_one_eq_mod]
  have hhigh : (total - total % 2 ^ hw.numGroupBits) <<< (hw.numBankBits + hw.numPipeBits) =
      (((total / 2 ^ hw.numGroupBits) <<< hw.numBankBits) <<< hw.numPipeBits) <<< hw.numGroupBits := by
    rw [Nat.sub_eq_of_eq_add (Nat.div_add_mod total _).symm]
    simp only [Nat.shiftLeft_eq, Nat.pow_add]
    ring
  have hregroup : ∀ b p l h : Nat, b ||| p ||| l ||| h = l ||| (p ||| (b ||| h)) := fun b p l h => by ac_rfl
  have hgroup : total % 2 ^ hw.numGroupBits < 2 ^ hw.numGroupBits := Nat.mod_lt _ (Nat.two_pow_pos _)
  simp only [interleave, hlow, hhigh, Nat.shiftLeft_add]
  rw [hregroup, ← Nat.shiftLeft_or_distrib, ← Nat.shiftLeft_or_distrib, ← Nat.shiftLeft_or_distrib,
    or_shiftLeft_of_lt _ _ _ hgroup, or_shiftLeft_of_lt _ _ _ hpipe, or_shiftLeft_of_lt _ _ _ hbank]

/-- Settles O45: `interleave_eq` over the counts of the profile. -/
theorem interleaveIsASumOfFields : Obligations.InterleaveIsASumOfFields := by
  intro hw total pipe bank h hpipe hbank
  obtain ⟨hpipes, hbanks, hgroup, -⟩ := profileCounts_of_wf hw h
  rw [hpipes] at hpipe
  rw [hbanks] at hbank
  rw [hpipes, hbanks, hgroup, interleave_eq hw total pipe bank hpipe hbank]

theorem exec_addrmac (m : MWord) (a : AddrArgs) (s : State) :
    exec (.addrmac m a) s = .next (answer .addrmac (addrmacResult m a) s) := rfl

theorem addrmacResult_eq_bind (m : MWord) (a : AddrArgs) :
    addrmacResult m a = (macroChecks m a).bind fun t =>
      offsetResult (addrMacro profile a.x.toNat a.y.toNat a.slice.toNat m.bpp.toNat a.pitch.toNat a.height.toNat t
        m.pipeSwizzle.toNat m.bankSwizzle.toNat) := by
  unfold addrmacResult
  cases macroChecks m a <;> rfl

/-- `total` of R177 on the default profile: a macrotile is 64 bytes per bit of an element and unit of thickness. -/
theorem macroTotal_profile (x y slice bpp pitch height : Nat) (t : TileMode) :
    macroTotal profile x y slice bpp pitch height t =
      (bpp * pixelIndex x y slice bpp (tmThickness t) + 7) / 8 +
        ((x / (32 / tmAspect t) + pitch / (32 / tmAspect t) * (y / (16 * tmAspect t))) * (64 * tmThickness t * bpp) +
          (height * pitch * tmThickness t * bpp + 7) / 8 * (slice / tmThickness t)) / 8 := by
  simp only [macroTotal, macroTileBytes_profile, macroTileDims_profile, Nat.shiftRight_eq_div_pow, Nat.mul_one,
    Nat.mul_comm (tmAspect t) 16]
  rfl

/-- R177 on the default profile. -/
theorem addrMacro_profile (x y slice bpp pitch height : Nat) (t : TileMode) (ps bs : Nat) :
    addrMacro profile x y slice bpp pitch height t ps bs =
      macroTotal profile x y slice bpp pitch height t % 256 +
        256 * (pipeBank profile x y slice t bpp pitch ps bs).pipe +
        512 * (pipeBank profile x y slice t bpp pitch ps bs).bank +
        2048 * (macroTotal profile x y slice bpp pitch height t / 256) := by
  obtain ⟨hpipe, hbank⟩ := pipeBank_lt profile x y slice t bpp pitch ps bs wf_profile
  rw [addrMacro, interleave_eq profile _ _ _ hpipe hbank]
  simp only [profile]
  omega

/-- Settles O43: the offset is `addrMacro` on the default profile. -/
theorem addrmacAnswersTheMacroTiledOffset : Obligations.AddrmacAnswersTheMacroTiledOffset := by
  refine fun m a s t => ⟨fun hr hlo hhi ht hns hpitch hbpp hsample => ?_,
    reportsFirstFailure_of_failsFirst _ _ s (exec_addrmac m a s)
      (addrmacResult_eq_bind m a ▸ macroChecks_failsFirst m a _)⟩
  intro c bpp th mtw mth elem tile slices total pb off
  have hcode : tmCode t = c := tmCode_of_tmOf m.tileMode t ht
  have hmacro : tmMacro t = true := (tmMacro_iff_code t).2 (hcode ▸ ⟨hlo, hhi⟩)
  have hoff : addrMacro profile a.x.toNat a.y.toNat a.slice.toNat bpp a.pitch.toNat a.height.toNat t
      m.pipeSwizzle.toNat m.bankSwizzle.toNat = off := by
    rw [addrMacro_profile, macroTotal_profile, ← codeThickness_tmCode, ← codeAspect_tmCode, hcode]
  rw [exec_addrmac, addrmacResult_eq_bind, macroChecks_of_legal m a t hr ht hns hpitch hmacro hbpp hsample,
    Except.bind, hoff]
  exact next_answer_offsetResult .addrmac off s

/-! ### Spans (R178)

Every offset is the size of an element times the element's place in some numbering of the surface. So a span lies inside
the surface because the place is below the number of elements, and spans are disjoint because places are distinct. -/

/-- The low digit of a mixed-radix number and the rest of it are determined by the number. -/
theorem digits_unique {p a b a' b' : Nat} (ha : a < p) (ha' : a' < p) (h : a + p * b = a' + p * b') :
    a = a' ∧ b = b' := by
  have hp : 0 < p := Nat.pos_of_ne_zero (Nat.ne_zero_of_lt ha)
  obtain ⟨hdiv, hmod⟩ := (Nat.div_mod_unique hp).2 ⟨rfl, ha⟩
  obtain ⟨hdiv', hmod'⟩ := (Nat.div_mod_unique hp).2 ⟨rfl, ha'⟩
  rw [← h] at hdiv' hmod'
  exact ⟨hmod.symm.trans hmod', hdiv.symm.trans hdiv'⟩

/-- The span at place `a` ends at or before place `c`, where `c` is a later place or the end of the surface. -/
theorem span_le {a c : Nat} (n : Nat) (h : a < c) : n * a + n ≤ n * c := Nat.mul_le_mul_left n h

theorem spans_disjoint_of_ne {a b : Nat} (n : Nat) (h : a ≠ b) : n * a + n ≤ n * b ∨ n * b + n ≤ n * a :=
  h.lt_or_gt.imp (span_le n) (span_le n)

/-- The place of an element, or of a tile, in a linear numbering: along a row, then by row, then by slice. -/
def linearPlace (pitch height x y z : Nat) : Nat := x + pitch * (y + height * z)

theorem linearPlace_lt {pitch height depth x y z : Nat} (hx : x < pitch) (hy : y < height) (hz : z < depth) :
    linearPlace pitch height x y z < pitch * (height * depth) :=
  Nat.add_mul_lt_mul_of_lt_of_lt hx (Nat.add_mul_lt_mul_of_lt_of_lt hy hz)

theorem linearPlace_inj {pitch height x y z x' y' z' : Nat} (hx : x < pitch) (hy : y < height) (hx' : x' < pitch)
    (hy' : y' < height) (h : linearPlace pitch height x y z = linearPlace pitch height x' y' z') :
    x = x' ∧ y = y' ∧ z = z' :=
  (digits_unique hx hx' h).imp_right (digits_unique hy hy')

/-- `AddrLinear` of sample 0 for elements of `n` bytes (R161). -/
theorem addrLinear_bytes (n x y z depth pitch height : Nat) :
    addrLinear x y z 0 depth (8 * n) pitch height = n * linearPlace pitch height x y z := by
  rw [addrLinear, linearPlace, Nat.mul_left_comm, Nat.mul_div_cancel_left _ (by decide)]
  ring

/-- Settles O46: the offsets are those of the places of a linear numbering. -/
theorem linearSpansTileTheSurface : Obligations.LinearSpansTileTheSurface := by
  intro bpp pitch height depth _ hbpp x y z hx hy hz
  obtain ⟨n, rfl⟩ := Nat.dvd_of_mod_eq_zero hbpp
  have hsize : pitch * height * depth * (8 * n) / 8 = n * (pitch * (height * depth)) := by
    rw [Nat.mul_left_comm, Nat.mul_div_cancel_left _ (by decide)]
    ring
  simp only [addrLinear_bytes, hsize, Nat.mul_div_cancel_left n (by decide : 0 < 8)]
  refine ⟨span_le n (linearPlace_lt hx hy hz), fun x' y' z' hx' hy' _ hne => spans_disjoint_of_ne n fun heq => hne ?_⟩
  exact linearPlace_inj hx hy hx' hy' heq

/-! ### Spans in tiled surfaces -/

/-- The thickness of a mode is 1 or 4, so the slice bits of the pixel index count the slice within a tile. -/
theorem pixelIndex_tmThickness (x y z bpp : Nat) (t : TileMode) :
    pixelIndex x y z bpp (tmThickness t) = gatherBits x y (pixelOrder bpp) + 64 * (z % tmThickness t) := by
  have hthickness : tmThickness t = 1 ∨ tmThickness t = 4 := by cases t <;> decide
  rw [pixelIndex, sliceBits_tmThickness, bitOf_eq, bitOf_eq]
  rcases hthickness with h | h
  · rw [h, if_neg (by decide), Nat.mod_one]
  · rw [h, if_pos rfl]
    omega

theorem tmThickness_pos (t : TileMode) : 0 < tmThickness t := by cases t <;> decide

theorem pixelIndex_lt (x y z bpp : Nat) (t : TileMode) : pixelIndex x y z bpp (tmThickness t) < 64 * tmThickness t := by
  rw [pixelIndex_tmThickness]
  exact Nat.add_mul_lt_mul_of_lt_of_lt (gatherBits_pixelOrder_lt x y bpp) (Nat.mod_lt z (tmThickness_pos t))

theorem pixelIndex_inj {x y z x' y' z' bpp : Nat} {t : TileMode}
    (h : pixelIndex x y z bpp (tmThickness t) = pixelIndex x' y' z' bpp (tmThickness t)) :
    (x % 8 = x' % 8 ∧ y % 8 = y' % 8) ∧ z % tmThickness t = z' % tmThickness t := by
  rw [pixelIndex_tmThickness, pixelIndex_tmThickness] at h
  obtain ⟨hxy, hz⟩ := digits_unique (gatherBits_pixelOrder_lt x y bpp) (gatherBits_pixelOrder_lt x' y' bpp) h
  exact ⟨(gatherBits_pixelOrder_eq_iff x y x' y' bpp).1 hxy, hz⟩

/-- The place of an element in a surface of tiles `w` by `h`, `P` to a row and `H` to a column: the pixel index within the
micro-tile, then the tile. -/
def tiledPlace (t : TileMode) (bpp w h P H x y z : Nat) : Nat :=
  pixelIndex x y z bpp (tmThickness t) +
    64 * tmThickness t * linearPlace P H (x / w) (y / h) (z / tmThickness t)

/-- What the place says of the coordinates: the tile, and the coordinates within the micro-tile. -/
theorem tiledPlace_inj {t : TileMode} {bpp w h P H x y z x' y' z' : Nat} (hx : x < w * P) (hy : y < h * H)
    (hx' : x' < w * P) (hy' : y' < h * H)
    (heq : tiledPlace t bpp w h P H x y z = tiledPlace t bpp w h P H x' y' z') :
    ((x % 8 = x' % 8 ∧ y % 8 = y' % 8) ∧ z % tmThickness t = z' % tmThickness t) ∧
      x / w = x' / w ∧ y / h = y' / h ∧ z / tmThickness t = z' / tmThickness t := by
  obtain ⟨hpixel, htile⟩ := digits_unique (pixelIndex_lt x y z bpp t) (pixelIndex_lt x' y' z' bpp t) heq
  exact ⟨pixelIndex_inj hpixel, linearPlace_inj (Nat.div_lt_of_lt_mul hx) (Nat.div_lt_of_lt_mul hy)
    (Nat.div_lt_of_lt_mul hx') (Nat.div_lt_of_lt_mul hy') htile⟩

/-- `AddrMicro` for elements of `n` bytes, over a surface of whole micro-tiles (R166). -/
theorem addrMicro_bytes (n x y z P H : Nat) (t : TileMode) :
    addrMicro x y z (8 * n) (8 * P) (8 * H) t = n * tiledPlace t (8 * n) 8 8 P H x y z := by
  have hpixel : ∀ i, 8 * n * i / 8 = n * i := fun i => by rw [Nat.mul_assoc, Nat.mul_div_cancel_left _ (by decide)]
  have hslice : (8 * P * (8 * H) * tmThickness t * (8 * n) + 7) / 8 = 64 * P * H * tmThickness t * n := by
    rw [show 8 * P * (8 * H) * tmThickness t * (8 * n) = 8 * (64 * P * H * tmThickness t * n) by ring]
    omega
  rw [addrMicro_eq, hpixel, hslice, Nat.mul_div_cancel_left P (by decide), tiledPlace, linearPlace]
  ring

/-- Settles O47: a place determines all three coordinates, since the tiles are micro-tiles. -/
theorem microTiledSpansTileTheSurface : Obligations.MicroTiledSpansTileTheSurface := by
  intro t bpp pitch height depth _ _ hbpp hpitch hheight hdepth x y z hx hy hz
  obtain ⟨n, rfl⟩ := Nat.dvd_of_mod_eq_zero hbpp
  obtain ⟨P, rfl⟩ := Nat.dvd_of_mod_eq_zero hpitch
  obtain ⟨H, rfl⟩ := Nat.dvd_of_mod_eq_zero hheight
  obtain ⟨D, rfl⟩ := Nat.dvd_of_mod_eq_zero hdepth
  have hsize : 8 * P * (8 * H) * (tmThickness t * D) * (8 * n) / 8 = n * (64 * tmThickness t * (P * (H * D))) := by
    rw [Nat.mul_left_comm, Nat.mul_div_cancel_left _ (by decide)]
    ring
  have hplace : tiledPlace t (8 * n) 8 8 P H x y z < 64 * tmThickness t * (P * (H * D)) :=
    Nat.add_mul_lt_mul_of_lt_of_lt (pixelIndex_lt x y z _ t)
      (linearPlace_lt (Nat.div_lt_of_lt_mul hx) (Nat.div_lt_of_lt_mul hy) (Nat.div_lt_of_lt_mul hz))
  simp only [addrMicro_bytes, hsize, Nat.mul_div_cancel_left n (by decide : 0 < 8)]
  refine ⟨span_le n hplace, fun x' y' z' hx' hy' _ hne => spans_disjoint_of_ne n fun heq => hne ?_⟩
  obtain ⟨⟨⟨hxm, hym⟩, hzm⟩, hxd, hyd, hzd⟩ := tiledPlace_inj hx hy hx' hy' heq
  exact ⟨Nat.ext_div_mod hxd hxm, Nat.ext_div_mod hyd hym, Nat.ext_div_mod hzd hzm⟩

/-! ### Spans in macrotiled surfaces -/

/-- `total` of R177 for elements of `n` bytes, over a surface of whole macrotiles. -/
theorem macroTotal_bytes (n x y z P H : Nat) (t : TileMode) :
    macroTotal profile x y z (8 * n) (32 / tmAspect t * P) (16 * tmAspect t * H) t =
      n * tiledPlace t (8 * n) (32 / tmAspect t) (16 * tmAspect t) P H x y z := by
  have harea : 16 * tmAspect t * (32 / tmAspect t) = 512 := by cases t <;> rfl
  have hwidth : 0 < 32 / tmAspect t := by cases t <;> decide
  have hpixel : ∀ i, (8 * n * i + 7) / 8 = n * i := fun i => by rw [Nat.mul_assoc]; omega
  have hslice : (16 * tmAspect t * H * (32 / tmAspect t * P) * tmThickness t * (8 * n) + 7) / 8 =
      8 * (64 * (P * H) * tmThickness t * n) := by
    rw [show 16 * tmAspect t * H * (32 / tmAspect t * P) * tmThickness t * (8 * n) =
      8 * (16 * tmAspect t * (32 / tmAspect t) * (P * H) * tmThickness t * n) by ring, harea,
      show 512 * (P * H) * tmThickness t * n = 8 * (64 * (P * H) * tmThickness t * n) by ring]
    omega
  have htiles : ∀ T : Nat, (T * (64 * tmThickness t * (8 * n)) +
      8 * (64 * (P * H) * tmThickness t * n) * (z / tmThickness t)) / 8 =
        n * (64 * tmThickness t * (T + P * H * (z / tmThickness t))) := fun T => by
    rw [← Nat.mul_div_cancel_left (n * _) (by decide : 0 < 8)]
    exact congrArg (· / 8) (by ring)
  rw [macroTotal_profile, hpixel, hslice, htiles, Nat.mul_div_cancel_left P hwidth, tiledPlace, linearPlace]
  ring

/-- Elements of these sizes are whole bytes and fill a group of 256 bytes. -/
theorem elements_fill_group {bpp : Nat} (h : bpp ∈ [8, 16, 32, 64, 128]) :
    ∃ n k, bpp = 8 * n ∧ 0 < n ∧ n * k = 256 ∧ 0 < k := by
  simp only [List.mem_cons, List.not_mem_nil, or_false] at h
  rcases h with rfl | rfl | rfl | rfl | rfl
  · exact ⟨1, 256, by decide⟩
  · exact ⟨2, 128, by decide⟩
  · exact ⟨4, 64, by decide⟩
  · exact ⟨8, 32, by decide⟩
  · exact ⟨16, 16, by decide⟩

/-- The address of a macrotiled element of `n` bytes, in units of its size: `k` elements fill a group of 256 bytes. -/
def macroPlace (k pipe bank place : Nat) : Nat := place % k + k * (pipe + 2 * (bank + 4 * (place / k)))

theorem macroPlace_inj {k pipe bank place pipe' bank' place' : Nat} (hk : 0 < k) (hpipe : pipe < 2) (hbank : bank < 4)
    (hpipe' : pipe' < 2) (hbank' : bank' < 4)
    (h : macroPlace k pipe bank place = macroPlace k pipe' bank' place') :
    pipe = pipe' ∧ bank = bank' ∧ place = place' := by
  obtain ⟨hmod, hrest⟩ := digits_unique (Nat.mod_lt place hk) (Nat.mod_lt place' hk) h
  obtain ⟨hpipe_eq, hrest⟩ := digits_unique hpipe hpipe' hrest
  obtain ⟨hbank_eq, hdiv⟩ := digits_unique hbank hbank' hrest
  exact ⟨hpipe_eq, hbank_eq, Nat.ext_div_mod hdiv hmod⟩

/-- `AddrMacro` for elements of `n` bytes (R177). -/
theorem addrMacro_bytes (n k x y z P H : Nat) (t : TileMode) (ps bs : Nat) (hn : 0 < n) (hnk : n * k = 256) :
    addrMacro profile x y z (8 * n) (32 / tmAspect t * P) (16 * tmAspect t * H) t ps bs =
      n * macroPlace k (pipeBank profile x y z t (8 * n) (32 / tmAspect t * P) ps bs).pipe
        (pipeBank profile x y z t (8 * n) (32 / tmAspect t * P) ps bs).bank
        (tiledPlace t (8 * n) (32 / tmAspect t) (16 * tmAspect t) P H x y z) := by
  have hgroup : ∀ r : Nat, n * r % 256 = n * (r % k) ∧ n * r / 256 = r / k := fun r => by
    rw [← hnk]
    exact ⟨Nat.mul_mod_mul_left n r k, Nat.mul_div_mul_left r k hn⟩
  have hexpand : ∀ low rest : Nat, n * (low + k * rest) = n * low + 256 * rest := fun low rest => by
    rw [Nat.mul_add, ← Nat.mul_assoc, hnk]
  rw [addrMacro_profile, macroTotal_bytes, (hgroup _).1, (hgroup _).2, macroPlace, hexpand]
  ring

/-- One binary digit more of a quotient. -/
theorem div_eq_of_div_mul_two {v v' : Nat} (k : Nat) (h : v / (k * 2) = v' / (k * 2)) (hbit : v / k % 2 = v' / k % 2) :
    v / k = v' / k :=
  Nat.ext_div_mod (by rwa [Nat.div_div_eq_div_mul, Nat.div_div_eq_div_mul]) hbit

theorem parity_left {a b c d : Nat} (h : (a + b) % 2 = (c + d) % 2) (hb : b % 2 = d % 2) : a % 2 = c % 2 := by omega

theorem parity_right {a b c d : Nat} (h : (a + b) % 2 = (c + d) % 2) (ha : a % 2 = c % 2) : b % 2 = d % 2 := by omega

/-- Within a macrotile the pair of pipe and bank before swizzle names the micro-tile (R168, R171): of the three digits that
number the micro-tiles of a macrotile, each bit of the pair gives one. -/
theorem microTile_of_pipe0_bank0 {t : TileMode} {x y x' y' : Nat} (hx : x / (32 / tmAspect t) = x' / (32 / tmAspect t))
    (hy : y / (16 * tmAspect t) = y' / (16 * tmAspect t)) (hpipe : pipe0 profile x y = pipe0 profile x' y')
    (hbank : bank0 profile x y = bank0 profile x' y') : x / 8 = x' / 8 ∧ y / 8 = y' / 8 := by
  rw [pipe0_profile, pipe0_profile] at hpipe
  rw [bank0_profile, bank0_profile] at hbank
  obtain ⟨hlow, hhigh⟩ := digits_unique (Nat.mod_lt _ two_pos) (Nat.mod_lt _ two_pos) hbank
  have haspect : tmAspect t = 1 ∨ tmAspect t = 2 ∨ tmAspect t = 4 := by cases t <;> decide
  rcases haspect with h | h | h <;> rw [h] at hx hy
  · have hy32 : y / 32 = y' / 32 := by rw [← Nat.div_div_eq_div_mul y 16 2, ← Nat.div_div_eq_div_mul y' 16 2, hy]
    have hx8 := parity_left hlow (congrArg (· % 2) hy32)
    have hx16 := parity_left hhigh (congrArg (· % 2) hy)
    have hy8 := parity_right hpipe hx8
    exact ⟨div_eq_of_div_mul_two 8 (div_eq_of_div_mul_two 16 hx hx16) hx8, div_eq_of_div_mul_two 8 hy hy8⟩
  · have hx8 := parity_left hlow (congrArg (· % 2) hy)
    have hy16 := parity_right hhigh (congrArg (· % 2) hx)
    have hy8 := parity_right hpipe hx8
    exact ⟨div_eq_of_div_mul_two 8 hx hx8, div_eq_of_div_mul_two 8 (div_eq_of_div_mul_two 16 hy hy16) hy8⟩
  · have hx16 : x / 16 = x' / 16 := by rw [← Nat.div_div_eq_div_mul x 8 2, ← Nat.div_div_eq_div_mul x' 8 2, hx]
    have hy32 := parity_right hlow (congrArg (· % 2) hx)
    have hy16 := parity_right hhigh (congrArg (· % 2) hx16)
    have hy8 := parity_right hpipe (congrArg (· % 2) hx)
    exact ⟨hx, div_eq_of_div_mul_two 8 (div_eq_of_div_mul_two 16 (div_eq_of_div_mul_two 32 hy hy32) hy16) hy8⟩

/-- XOR with a fixed mask is injective on the pairs of pipe and bank (R172). -/
theorem eq_of_xor_mod_eight {u v mask : Nat} (hu : u < 8) (hv : v < 8)
    (h : (u ^^^ mask) % 8 = (v ^^^ mask) % 8) : u = v := by
  rw [show 8 = 2 ^ 3 from rfl, Nat.xor_mod_two_pow, Nat.xor_mod_two_pow, Nat.xor_left_inj, Nat.mod_eq_of_lt hu,
    Nat.mod_eq_of_lt hv] at h
  exact h

theorem swapMask_congr {t : TileMode} {x x' : Nat} (bpp pitch : Nat)
    (hx : x / (32 / tmAspect t) = x' / (32 / tmAspect t)) :
    swapMask (tmCode t) t bpp pitch x = swapMask (tmCode t) t bpp pitch x' := by
  rw [swapMask, swapMask, codeAspect_tmCode, hx]

/-- Within one column of macrotiles, pipe and bank determine what they were before swizzle, rotation and bank swap. -/
theorem pipe0_bank0_of_pipeBank {t : TileMode} {x y x' y' slice bpp pitch ps bs : Nat} (hmacro : tmMacro t = true)
    (hx : x / (32 / tmAspect t) = x' / (32 / tmAspect t))
    (hpipe : (pipeBank profile x y slice t bpp pitch ps bs).pipe = (pipeBank profile x' y' slice t bpp pitch ps bs).pipe)
    (hbank : (pipeBank profile x y slice t bpp pitch ps bs).bank = (pipeBank profile x' y' slice t bpp pitch ps bs).bank) :
    pipe0 profile x y = pipe0 profile x' y' ∧ bank0 profile x y = bank0 profile x' y' := by
  have hrange : ∀ u v : Nat, pipe0 profile u v < 2 ∧ bank0 profile u v < 4 := fun u v => by
    rw [pipe0_profile, bank0_profile]
    omega
  have hpair := hrange x y
  have hpair' := hrange x' y'
  simp only [pipeBank_profile _ _ _ t _ _ _ _ hmacro, swapMask_congr bpp pitch hx, Nat.xor_left_inj] at hpipe hbank
  have heq := eq_of_xor_mod_eight (by omega) (by omega) (Nat.ext_div_mod hbank hpipe)
  exact digits_unique hpair.1 hpair'.1 heq

/-- Settles O48: equal addresses give the same macrotile, then the same micro-tile, then the same element. -/
theorem macroTiledSpansAreDisjoint : Obligations.MacroTiledSpansAreDisjoint := by
  intro t bpp pitch height slice ps bs hmacro hbpp _ hpitch hheight x y x' y' hx hy hx' hy' hne
  obtain ⟨n, k, rfl, hn, hnk, hk⟩ := elements_fill_group hbpp
  rw [macroTileDims_profile] at hpitch hheight
  obtain ⟨P, rfl⟩ := Nat.dvd_of_mod_eq_zero hpitch
  obtain ⟨H, rfl⟩ := Nat.dvd_of_mod_eq_zero hheight
  simp only [Nat.mul_comm (tmAspect t) 16] at hy hy' ⊢
  rw [addrMacro_bytes n k x y slice P H t ps bs hn hnk, addrMacro_bytes n k x' y' slice P H t ps bs hn hnk,
    Nat.mul_div_cancel_left n (by decide : 0 < 8)]
  refine spans_disjoint_of_ne n fun heq => hne ?_
  obtain ⟨hpipe, hbank⟩ := pipeBank_lt profile x y slice t (8 * n) (32 / tmAspect t * P) ps bs wf_profile
  obtain ⟨hpipe', hbank'⟩ := pipeBank_lt profile x' y' slice t (8 * n) (32 / tmAspect t * P) ps bs wf_profile
  obtain ⟨hpipe_eq, hbank_eq, hplace⟩ := macroPlace_inj hk hpipe hbank hpipe' hbank' heq
  obtain ⟨⟨⟨hxm, hym⟩, -⟩, hxd, hyd, -⟩ := tiledPlace_inj hx hy hx' hy' hplace
  obtain ⟨hpipe0, hbank0⟩ := pipe0_bank0_of_pipeBank hmacro hxd hpipe_eq hbank_eq
  obtain ⟨hx8, hy8⟩ := microTile_of_pipe0_bank0 hxd hyd hpipe0 hbank0
  exact ⟨Nat.ext_div_mod hx8 hxm, Nat.ext_div_mod hy8 hym⟩

end Sys2Proof.Machine

/-! SUPPORT. The proofs of the statements of spec/44_swizzle.md: where the elements of SWZ and DSWZ lie (R193 to R195), what
the two commands bring where (R198, R199), and that DSWZ undoes SWZ (R200). -/

namespace Sys2Proof.Machine

open Sys2Proof

/-! ### Where the elements lie -/

/-- In the linear buffer the elements follow one another in the order of the loop. -/
theorem linearOffset_elem (j : Job) (k : Nat) : linearOffset j (k % j.wI) (k / j.wI) = k * j.n := by
  rw [linearOffset, Nat.div_add_mod']

theorem elemSrc_toTiled (j : Job) (k : Nat) : elemSrc .toTiled j k = j.linBase + k * j.n :=
  congrArg (j.linBase + ·) (linearOffset_elem j k)

theorem elemDst_toLinear (j : Job) (k : Nat) : elemDst .toLinear j k = j.linBase + k * j.n :=
  congrArg (j.linBase + ·) (linearOffset_elem j k)

theorem elemDst_toTiled (j : Job) (k : Nat) :
    elemDst .toTiled j k = j.tiledBase + tiledOffset profile j (k % j.wI) (k / j.wI) := rfl

theorem elemSrc_toLinear (j : Job) (k : Nat) :
    elemSrc .toLinear j k = j.tiledBase + tiledOffset profile j (k % j.wI) (k / j.wI) := rfl

/-- R194 for element `k`. -/
theorem elemIn_iff (j : Job) (k : Nat) :
    elemIn j k = true ↔
      k * j.n + j.n ≤ j.linLen ∧ tiledOffset profile j (k % j.wI) (k / j.wI) + j.n ≤ j.tiledLen := by
  rw [elemIn, inBounds_iff, linearOffset_elem]

/-- R193: an image dimension counts blocks of four when `isBC` is set. -/
theorem elemCount_isBC (m : MWord) (v : Nat) :
    elemCount v (m.isBC == 1#1) = if m.isBC = 1#1 then (v + 3) / 4 else v := by
  simp only [elemCount, beq_iff_eq]
  rfl

theorem swizzlePipe_eq (v : Word) : swizzlePipe v = v.toNat / 256 % 2 := by
  rw [swizzlePipe, Nat.shiftRight_eq_div_pow]
  exact Nat.and_two_pow_sub_one_eq_mod _ 1

theorem swizzleBank_eq (v : Word) : swizzleBank v = v.toNat / 512 % 4 := by
  rw [swizzleBank, Nat.shiftRight_eq_div_pow]
  exact Nat.and_two_pow_sub_one_eq_mod _ 2

theorem tmFamily_linear_iff_code (t : TileMode) : tmFamily t = .linear ↔ tmCode t = 0 ∨ tmCode t = 1 ∨ tmCode t = 16 := by
  cases t <;> decide

theorem tmFamily_linear_iff_tileMode (c : BitVec 5) (t : TileMode) (h : tmOf c = some t) :
    tmFamily t = .linear ↔ c = 0#5 ∨ c = 1#5 ∨ c = 16#5 := by
  simp only [tmFamily_linear_iff_code, tmCode_of_tmOf c t h, ← BitVec.toNat_inj]
  rfl

theorem tmFamily_micro_iff_tileMode (c : BitVec 5) (t : TileMode) (h : tmOf c = some t) :
    tmFamily t = .micro ↔ c = 2#5 ∨ c = 3#5 := by
  simp only [tmFamily_micro_iff_code, tmCode_of_tmOf c t h, ← BitVec.toNat_inj]
  rfl

/-- R193: the formula of the mode's family, at slice 0 and sample 0. -/
theorem tiledOffset_eq (hw : Config.Profile) (j : Job) (x y : Nat) :
    tiledOffset hw j x y =
      if tmFamily j.mode = .linear then (x + j.pitch * y) * j.bpp / 8
      else if tmFamily j.mode = .micro then addrMicro x y 0 j.bpp j.pitch j.surfHeight j.mode
      else addrMacro hw x y 0 j.bpp j.pitch j.surfHeight j.mode j.ps j.bs := by
  unfold tiledOffset
  cases tmFamily j.mode with
  | linear => simp [addrLinear]
  | micro => rfl
  | macroTiled => rfl

/-- R193, R68: the formula by the mode's code, with the swizzle of the packet. -/
theorem tiledOffset_jobOf (m : MWord) (a : SwzArgs) (t : TileMode) (x y : Nat) (h : tmOf m.tileMode = some t) :
    tiledOffset profile (jobOf m t a) x y =
      if m.tileMode = 0#5 ∨ m.tileMode = 1#5 ∨ m.tileMode = 16#5 then (x + a.pitch.toNat * y) * m.bpp.toNat / 8
      else if m.tileMode = 2#5 ∨ m.tileMode = 3#5 then
        addrMicro x y 0 m.bpp.toNat a.pitch.toNat a.surfHeight.toNat t
      else
        addrMacro profile x y 0 m.bpp.toNat a.pitch.toNat a.surfHeight.toNat t
          (a.swizzleValue.toNat / 256 % 2) (a.swizzleValue.toNat / 512 % 4) := by
  simp only [tiledOffset_eq, jobOf, tmFamily_linear_iff_tileMode m.tileMode t h,
    tmFamily_micro_iff_tileMode m.tileMode t h, swizzlePipe_eq, swizzleBank_eq]

/-- Settles O51: the linear spans follow one another, and `tiledOffset_jobOf` names the formula of the tiled ones. -/
theorem swzElementsLieWhereTheFormulasSay : Obligations.SwzElementsLieWhereTheFormulasSay := by
  intro m a t k h n wI hI tiled
  have hwI : (jobOf m t a).wI = wI := elemCount_isBC m a.width.toNat
  have hhI : (jobOf m t a).hI = hI := elemCount_isBC m a.height.toNat
  have htiled : tiledOffset profile (jobOf m t a) (k % (jobOf m t a).wI) (k / (jobOf m t a).wI) = tiled := by
    rw [hwI]
    exact tiledOffset_jobOf m a t _ _ h
  have hin := elemIn_iff (jobOf m t a) k
  rw [htiled] at hin
  exact ⟨hwI, hhI, elemSrc_toTiled _ k, congrArg (a.tiledBase.toNat + ·) htiled,
    congrArg (a.tiledBase.toNat + ·) htiled, elemDst_toLinear _ k, hin⟩

/-! ### The spans of copied elements -/

/-- The two buffers share no byte (R192). -/
def BuffersApart (j : Job) : Prop :=
  j.linLen = 0 ∨ j.tiledLen = 0 ∨ j.tiledBase + j.tiledLen ≤ j.linBase ∨ j.linBase + j.linLen ≤ j.tiledBase

theorem buffersApart_of_swzChecks (m : MWord) (a : SwzArgs) (j : Job) (h : swzChecks m a = .ok j) : BuffersApart j := by
  obtain ⟨t, -, rfl, -, -, -, -, -, -, hbuf⟩ := swzChecks_ok m a j h
  obtain ⟨-, -, hapart⟩ := badBuffers_false a hbuf
  exact hapart

/-- What SWZ covers lies in the tiled buffer, outside the linear one. -/
theorem not_covered_toTiled (j : Job) (k b : Nat) (hapart : BuffersApart j) (hlo : j.linBase ≤ b)
    (hhi : b < j.linBase + j.linLen) : ¬ elemCovers .toTiled j k b := by
  rintro ⟨-, hin, hlo', hhi'⟩
  obtain ⟨-, htiled⟩ := (elemIn_iff j k).1 hin
  rw [elemDst_toTiled] at hlo' hhi'
  unfold BuffersApart at hapart
  omega

/-- What DSWZ covers lies in the linear buffer, outside the tiled one. -/
theorem not_covered_toLinear (j : Job) (k b : Nat) (hapart : BuffersApart j) (hlo : j.tiledBase ≤ b)
    (hhi : b < j.tiledBase + j.tiledLen) : ¬ elemCovers .toLinear j k b := by
  rintro ⟨-, hin, hlo', hhi'⟩
  obtain ⟨hlin, -⟩ := (elemIn_iff j k).1 hin
  rw [elemDst_toLinear] at hlo' hhi'
  unfold BuffersApart at hapart
  omega

/-- No element is copied onto the source of a copied element: sources and destinations lie in different buffers. -/
theorem source_not_covered (d : Dir) (j : Job) (k k' i : Nat) (hapart : BuffersApart j) (hin : elemIn j k = true)
    (hi : i < j.n) : ¬ elemCovers d j k' (elemSrc d j k + i) := by
  obtain ⟨hlin, htiled⟩ := (elemIn_iff j k).1 hin
  cases d with
  | toTiled =>
    rw [elemSrc_toTiled]
    exact not_covered_toTiled j k' _ hapart (by omega) (by omega)
  | toLinear =>
    rw [elemSrc_toLinear]
    exact not_covered_toLinear j k' _ hapart (by omega) (by omega)

/-- The spans of distinct elements in the linear buffer are disjoint. -/
theorem eq_of_covers_linear (j : Job) (k k' i : Nat) (hi : i < j.n)
    (h : elemCovers .toLinear j k' (j.linBase + k * j.n + i)) : k' = k := by
  obtain ⟨-, -, hlo, hhi⟩ := h
  rw [elemDst_toLinear] at hlo hhi
  have hle : k' ≤ k := Nat.le_of_lt_succ (Nat.lt_of_mul_lt_mul_right (a := j.n) (by rw [Nat.succ_mul]; omega))
  have hge : k ≤ k' := Nat.le_of_lt_succ (Nat.lt_of_mul_lt_mul_right (a := j.n) (by rw [Nat.succ_mul]; omega))
  exact le_antisymm hle hge

/-! ### The loop with a quiet host, element by element -/

/-- What the loop starts from: the host stays away, the memory has its canonical form, and the checks of R192 have
passed. -/
structure QuietStart (j : Job) (s : State) : Prop where
  quiet : quiet s
  wf : memWf s.mem = true
  fit : BuffersFit j
  apart : BuffersApart j

/-- The state in which a quiet host finds the loop when `k` elements have had their turn. -/
def afterElements (d : Dir) (j : Job) (s : State) (k : Nat) : State := (quietElement profile d j)^[k] (startLoop s)

theorem afterElements_succ (d : Dir) (j : Job) (s : State) (k : Nat) :
    afterElements d j s (k + 1) = quietElement profile d j (afterElements d j s k) :=
  Function.iterate_succ_apply' _ _ _

theorem quietElement_hostSaw (hw : Config.Profile) (d : Dir) (j : Job) (s : State) :
    (quietElement hw d j s).hostSaw = s.hostSaw := by
  unfold quietElement
  split <;> rfl

theorem afterElements_hostSaw (d : Dir) (j : Job) (s : State) (k : Nat) :
    (afterElements d j s k).hostSaw = s.hostSaw := by
  induction k with
  | zero => rfl
  | succ k ih => rw [afterElements_succ, quietElement_hostSaw, ih]

/-- The quiet host is one of those the loop runs beside: the loop state counts the elements, and the memory keeps its
canonical form and the bytes that no element covers. -/
theorem afterElements_beside (d : Dir) (j : Job) (s : State) (k : Nat) (hs : QuietStart j s) (hk : k ≤ j.wI * j.hI) :
    (afterElements d j s k).loop = loopAt j k ∧
      ∃ n, Beside n (Covered d j) (startLoop s) (afterElements d j s k) := by
  obtain ⟨hturns, hreset⟩ := hs.quiet
  have hfree : ResetFree (startLoop s) := ⟨hreset, by rw [startLoop_hostTurns, hturns]; exact nofun, hs.wf⟩
  obtain ⟨t, hrun, hloop, hbeside⟩ := elements_beside d j k 0 (startLoop s) hfree hs.fit (loopAt_zero j).symm (by omega)
  rw [elements_quiet profile d j k (startLoop s) ⟨hturns, hreset⟩] at hrun
  obtain rfl : afterElements d j s k = t := Except.ok.inj hrun
  rw [Nat.zero_add] at hloop
  exact ⟨hloop, _, hbeside⟩

theorem afterElements_kept (d : Dir) (j : Job) (s : State) (k b : Nat) (hs : QuietStart j s) (hk : k ≤ j.wI * j.hI)
    (hb : ∀ k', ¬ elemCovers d j k' b) : memGet (afterElements d j s k).mem b = memGet s.mem b := by
  obtain ⟨-, n, hbeside⟩ := afterElements_beside d j s k hs hk
  have hhost : ¬ hostWrites (startLoop s).hostTurns b := by
    rw [startLoop_hostTurns, hs.quiet.1]
    simp [hostWrites]
  exact hbeside.frame b (fun ⟨k', hk'⟩ => hb k' hk') hhost

theorem afterElements_succ_mem (d : Dir) (j : Job) (s : State) (k : Nat) (hs : QuietStart j s) (hk : k < j.wI * j.hI) :
    (afterElements d j s (k + 1)).mem =
      if elemIn j k then
        memSetSpan (afterElements d j s k).mem (elemDst d j k)
          (memGetSpan (afterElements d j s k).mem (elemSrc d j k) j.n)
      else (afterElements d j s k).mem := by
  obtain ⟨hloop, -⟩ := afterElements_beside d j s k hs hk.le
  rw [afterElements_succ, quietElement_mem, hloop]
  rfl

/-- A byte after element `k` was copied: inside the element's span it is the byte read. -/
theorem memGet_afterElements_succ (d : Dir) (j : Job) (s : State) (k b : Nat) (hs : QuietStart j s)
    (hk : k < j.wI * j.hI) (hin : elemIn j k = true) :
    memGet (afterElements d j s (k + 1)).mem b =
      if elemDst d j k ≤ b ∧ b < elemDst d j k + j.n then
        memGet (afterElements d j s k).mem (elemSrc d j k + (b - elemDst d j k))
      else memGet (afterElements d j s k).mem b := by
  obtain ⟨-, n, hbeside⟩ := afterElements_beside d j s k hs hk.le
  have htop : elemDst d j k + j.n ≤ memSize := dstAddr_add_le_memSize profile d j _ _ hs.fit hin
  rw [afterElements_succ_mem d j s k hs hk, if_pos hin,
    memGet_memSetSpan _ _ b _ (by rwa [memGetSpan_length]) hbeside.resetFree.wf, memGetSpan_length]
  split
  · exact memGetSpan_getD _ _ _ _ (by omega)
  · rfl

/-- An element leaves alone what it does not cover. -/
theorem memGet_afterElements_succ_uncovered (d : Dir) (j : Job) (s : State) (k b : Nat) (hs : QuietStart j s)
    (hk : k < j.wI * j.hI) (hb : ¬ elemCovers d j k b) :
    memGet (afterElements d j s (k + 1)).mem b = memGet (afterElements d j s k).mem b := by
  by_cases hin : elemIn j k = true
  · rw [memGet_afterElements_succ d j s k b hs hk hin, if_neg fun hspan => hb ⟨hk, hin, hspan⟩]
  · rw [afterElements_succ_mem d j s k hs hk, if_neg hin]

/-- A byte holds what the last element to cover it brought: `r` elements after element `k`, none of which covers byte `i`
of its destination, that byte is the one element `k` found at its source when the command began. -/
theorem afterElements_brought (d : Dir) (j : Job) (s : State) (k i r : Nat) (hs : QuietStart j s)
    (hr : k + 1 + r ≤ j.wI * j.hI) (hin : elemIn j k = true) (hi : i < j.n)
    (hlast : ∀ k', k < k' → ¬ elemCovers d j k' (elemDst d j k + i)) :
    memGet (afterElements d j s (k + 1 + r)).mem (elemDst d j k + i) = memGet s.mem (elemSrc d j k + i) := by
  induction r with
  | zero =>
    rw [Nat.add_zero, memGet_afterElements_succ d j s k _ hs (by omega) hin, if_pos (by omega), Nat.add_sub_cancel_left]
    exact afterElements_kept d j s k _ hs (by omega) fun k' => source_not_covered d j k k' i hs.apart hin hi
  | succ r ih =>
    rw [← Nat.add_assoc, memGet_afterElements_succ_uncovered d j s _ _ hs (by omega) (hlast _ (by omega))]
    exact ih (by omega)

/-! ### SWZ and DSWZ with a quiet host -/

/-- What a SWZ or DSWZ that ends makes of `s`: the response holds the counts, bytes that no element covers stay, and the
last element to cover a byte brought it from its source. -/
structure Copies (opc : BitVec 8) (d : Dir) (j : Job) (s u : State) : Prop where
  state : u = { s with
    phase := .send, rsp := swzRsp opc j, rspQ := rspWords (swzRsp opc j), mem := u.mem, loop := u.loop, free := u.free }
  kept : ∀ b, (∀ k, ¬ elemCovers d j k b) → memGet u.mem b = memGet s.mem b
  brought : ∀ k i, k < j.wI * j.hI → elemIn j k = true → i < j.n →
    (∀ k', k < k' → ¬ elemCovers d j k' (elemDst d j k + i)) →
    memGet u.mem (elemDst d j k + i) = memGet s.mem (elemSrc d j k + i)

theorem copies_finishSwz (op : Op) (d : Dir) (j : Job) (s : State) (hs : QuietStart j s) (hlt : j.wI * j.hI < 2 ^ 64) :
    Copies op.code d j s (finishSwz op (afterElements d j s (j.wI * j.hI))) := by
  obtain ⟨hloop, n, hbeside⟩ := afterElements_beside d j s _ hs le_rfl
  have hframe : CommandFrame s (afterElements d j s (j.wI * j.hI)) :=
    (commandFrame_startLoop s).trans
      ((commandFrame_elements _ _ _ _ _).1 _ (elements_quiet profile d j _ (startLoop s) hs.quiet))
  refine ⟨?_, fun b => afterElements_kept d j s _ b hs le_rfl, fun k i hk hin hi hlast => ?_⟩
  · have hstate := finishSwz_eq op s _ hframe
    have hturns : s.hostTurns.drop n = s.hostTurns := by rw [hs.quiet.1, List.drop_nil]
    rw [finishSwz_rsp_of_loopAt op j _ hloop hlt, hbeside.turns, startLoop_hostTurns, hturns, afterElements_hostSaw,
      hbeside.resetFree.released, ← hs.quiet.2] at hstate
    exact hstate
  · obtain ⟨r, hr⟩ := Nat.exists_eq_add_of_le (Nat.succ_le_of_lt hk)
    rw [finishSwz_mem, hr]
    exact afterElements_brought d j s k i r hs hr.ge hin hi hlast

/-- R198, R199: with legal operands and a quiet host both commands copy every element and answer. -/
theorem exec_copies (m : MWord) (a : SwzArgs) (t : TileMode) (i : Instr) (d : Dir) (s : State)
    (hi : (i = .swz m a ∧ d = .toTiled) ∨ (i = .dswz m a ∧ d = .toLinear)) (hgood : operandsGood i)
    (ht : tmOf m.tileMode = some t) (hq : quiet s) (hwf : memWf s.mem = true) :
    ∃ u, exec i s = .next u ∧ Copies i.op.code d (jobOf m t a) s u := by
  have hchecks := swzChecks_of_operandsGood m a t i (hi.imp And.left And.left) hgood ht
  have hexec : exec i s = .next (runSwz i.op d m a s) := by
    rcases hi with ⟨rfl, rfl⟩ | ⟨rfl, rfl⟩ <;> rfl
  have hs : QuietStart (jobOf m t a) s :=
    ⟨hq, hwf, buffersFit_of_swzChecks m a _ hchecks, buffersApart_of_swzChecks m a _ hchecks⟩
  rw [runSwz_of_quiet i.op d m a _ s hq hchecks] at hexec
  exact ⟨_, hexec, copies_finishSwz i.op d _ s hs (jobOf_elements_lt m t a)⟩

/-- The spans of the linear buffer being disjoint, DSWZ brings every copied element. -/
theorem Copies.brought_linear {opc : BitVec 8} {j : Job} {s u : State} (h : Copies opc .toLinear j s u) (k i : Nat)
    (hk : k < j.wI * j.hI) (hin : elemIn j k = true) (hi : i < j.n) :
    memGet u.mem (j.linBase + k * j.n + i) = memGet s.mem (elemSrc .toLinear j k + i) := by
  have hbrought := h.brought k i hk hin hi
  rw [elemDst_toLinear] at hbrought
  exact hbrought fun k' hlt hcovers => absurd (eq_of_covers_linear j k k' i hi hcovers) hlt.ne'

/-! ### The first check that fails -/

/-- R198: the four checks in their order. -/
theorem swzChecks_failsFirst (m : MWord) (a : SwzArgs) (f : Job → Except Status (List Word)) :
    FailsFirst (causes (.swz m a)) ((swzChecks m a).bind f) := by
  unfold swzChecks
  rw [apply_ite (Except.bind · f)]
  refine failsFirst_ite .illegalCommand Iff.rfl ?_
  split
  · next hmode => exact failsFirst_error .unsupportedTileMode ((tmOf_eq_none_iff _).1 hmode)
  · next t ht =>
    simp only [apply_ite (Except.bind · f)]
    refine failsFirst_pass (not_badMode_of_tmOf m t ht) (failsFirst_ite .invalidDimensions Iff.rfl ?_)
    exact failsFirst_ite .badOperand (or_congr_right (or_congr_right (badBuffers_eq_true a).symm)) (failsFirst_nil _)

/-- The first cause that applies is what the checks of SWZ and DSWZ raise. -/
theorem swzChecks_of_firstCause (m : MWord) (a : SwzArgs) (c : BitVec 8) (h : firstCause (causes (.swz m a)) c) :
    ∃ e : Status, swzChecks m a = .error e ∧ e.code = c := by
  obtain ⟨e, he, hc⟩ := swzChecks_failsFirst m a (fun _ => .ok []) c h
  cases hchecks : swzChecks m a with
  | error e' =>
    rw [hchecks] at he
    cases he
    exact ⟨e, rfl, hc⟩
  | ok j =>
    rw [hchecks] at he
    cases he

/-- R217 for SWZ and DSWZ: the exception of the first cause is the header alone. -/
theorem runSwz_of_firstCause (op : Op) (d : Dir) (m : MWord) (a : SwzArgs) (s : State) (c : BitVec 8)
    (h : firstCause (causes (.swz m a)) c) : runSwz op d m a s = errResponse op.code c s := by
  obtain ⟨e, he, rfl⟩ := swzChecks_of_firstCause m a c h
  rw [runSwz_of_error op d m a e s he, raise_eq_errResponse]

theorem reportsFirstFailure_swz (m : MWord) (a : SwzArgs) (s : State) : reportsFirstFailure (.swz m a) s :=
  fun c h => congrArg _ (runSwz_of_firstCause .swz .toTiled m a s c h)

theorem reportsFirstFailure_dswz (m : MWord) (a : SwzArgs) (s : State) : reportsFirstFailure (.dswz m a) s :=
  fun c h => congrArg _ (runSwz_of_firstCause .dswz .toLinear m a s c h)

/-! ### What SWZ and DSWZ bring where -/

/-- Settles O49: what `Copies` says of SWZ. -/
theorem swzCopiesLinearToTiled : Obligations.SwzCopiesLinearToTiled := by
  refine fun m a s t => ⟨fun hgood ht hq hwf => ?_, reportsFirstFailure_swz m a s⟩
  obtain ⟨u, hexec, hcopies⟩ := exec_copies m a t _ _ s (.inl ⟨rfl, rfl⟩) hgood ht hq hwf
  exact ⟨u, hexec, hcopies.state, hcopies.kept,
    fun k i hi ⟨hk, hin, _⟩ hlast => hcopies.brought k i hk hin hi hlast⟩

/-- Settles O50: what `Copies` says of DSWZ, whose destinations are disjoint. -/
theorem dswzCopiesTiledToLinear : Obligations.DswzCopiesTiledToLinear := by
  refine fun m a s t => ⟨fun hgood ht hq hwf => ?_, reportsFirstFailure_dswz m a s⟩
  obtain ⟨u, hexec, hcopies⟩ := exec_copies m a t _ _ s (.inr ⟨rfl, rfl⟩) hgood ht hq hwf
  exact ⟨u, hexec, hcopies.state, hcopies.kept, hcopies.brought_linear⟩

/-! ### DSWZ after SWZ -/

/-- The same job with another linear buffer of the same length. -/
def Job.withLinBase (j : Job) (base : Nat) : Job := { j with linBase := base }

theorem elemIn_withLinBase (j : Job) (base k : Nat) : elemIn (j.withLinBase base) k = elemIn j k := rfl

theorem elemSrc_withLinBase (j : Job) (base k : Nat) : elemSrc .toLinear (j.withLinBase base) k = elemDst .toTiled j k := rfl

section Back

variable {opc opc' : BitVec 8} {j : Job} {base : Nat} {s u v : State}

/-- A copied element comes back: no other element covers its tiled span, and DSWZ reads it from there. -/
theorem copied_element_comes_back (k i : Nat) (hswz : Copies opc .toTiled j s u)
    (hdswz : Copies opc' .toLinear (j.withLinBase base) u v)
    (hdisjoint : ∀ k k' b, elemCovers .toTiled j k b → elemCovers .toTiled j k' b → k = k') (hk : k < j.wI * j.hI)
    (hi : i < j.n) (hin : elemIn j k = true) :
    memGet v.mem (base + k * j.n + i) = memGet s.mem (j.linBase + k * j.n + i) := by
  have hcovers : elemCovers .toTiled j k (elemDst .toTiled j k + i) := ⟨hk, hin, by omega, by omega⟩
  have hback := hdswz.brought_linear k i hk hin hi
  have hthere := hswz.brought k i hk hin hi fun k' hlt hcovers' => absurd (hdisjoint k k' _ hcovers hcovers') hlt.ne
  rw [elemSrc_withLinBase] at hback
  rw [elemSrc_toTiled] at hthere
  exact hback.trans hthere

/-- The bytes of a skipped element in the second linear buffer stay: neither command copies onto them. -/
theorem skipped_element_stays (k i : Nat) (hswz : Copies opc .toTiled j s u)
    (hdswz : Copies opc' .toLinear (j.withLinBase base) u v) (hapart : BuffersApart (j.withLinBase base)) (hi : i < j.n)
    (hin : elemIn j k = false) (hinside : base + k * j.n + i < base + j.linLen) :
    memGet v.mem (base + k * j.n + i) = memGet s.mem (base + k * j.n + i) := by
  have hnotBack : ∀ k', ¬ elemCovers .toLinear (j.withLinBase base) k' (base + k * j.n + i) := by
    intro k' hcovers
    obtain rfl : k' = k := eq_of_covers_linear (j.withLinBase base) k k' i hi hcovers
    obtain ⟨-, hin', -⟩ := hcovers
    rw [elemIn_withLinBase, hin] at hin'
    exact Bool.false_ne_true hin'
  have hnotThere : ∀ k', ¬ elemCovers .toTiled j k' (base + k * j.n + i) := fun k' =>
    not_covered_toTiled (j.withLinBase base) k' _ hapart (Nat.le_add_right_of_le (Nat.le_add_right _ _)) hinside
  exact (hdswz.kept _ hnotBack).trans (hswz.kept _ hnotThere)

end Back

/-- Settles O54: the two commands run one after the other; element by element a copied one comes back and a skipped one
stays. -/
theorem deswizzleUndoesSwizzle : Obligations.DeswizzleUndoesSwizzle := by
  intro m a base s u v t a' j n hgood hgood' ht hq hwf hdisjoint hu hv
  obtain ⟨u', hu', hswz⟩ := exec_copies m a t _ _ s (.inl ⟨rfl, rfl⟩) hgood ht hq hwf
  cases hu'.symm.trans hu
  have hqu : quiet u := by rw [hswz.state]; exact hq
  obtain ⟨v', hv', hdswz⟩ := exec_copies m a' t _ _ u (.inr ⟨rfl, rfl⟩) hgood' ht hqu (memWf_exec _ s u hu hwf)
  cases hv'.symm.trans hv
  have hapart := buffersApart_of_swzChecks m a' _ (swzChecks_of_operandsGood m a' t _ (.inr rfl) hgood' ht)
  have hwords : v.rsp.words = u.rsp.words := by rw [hdswz.state, hswz.state]; rfl
  have hflags : v.rsp.flags = u.rsp.flags := by rw [hdswz.state, hswz.state]; rfl
  refine ⟨hwords, hflags, fun k i hk hi => ⟨fun hin => ?_, fun hin hinside => ?_⟩⟩
  · exact copied_element_comes_back k i hswz hdswz hdisjoint hk hi hin
  · exact skipped_element_stays k i hswz hdswz hapart hi hin hinside

end Sys2Proof.Machine

/-! SUPPORT. The proofs of the statements of spec/60_exceptions.md: the order of the checks (R217), the exception matrix
(R218), and that an exception has no effect but its response (R212). -/

namespace Sys2Proof.Machine

open Sys2Proof

/-! ### The first check that fails -/

/-- R95: the one check. -/
theorem fmtinfoResult_failsFirst (c : Word) : FailsFirst (causes (.fmtinfo c)) (fmtinfoResult c) := by
  by_cases hc : knownFormat c
  · exact failsFirst_pass (not_not.2 hc) (failsFirst_nil _)
  · rw [fmtinfoResult_of_not_known c hc]
    exact failsFirst_error .unsupportedFormat hc

/-- R98: the two checks in their order. -/
theorem tmpropResult_failsFirst (m : MWord) : FailsFirst (causes (.tmprop m)) (tmpropResult m) := by
  unfold tmpropResult
  refine failsFirst_ite .illegalCommand Iff.rfl ?_
  split
  · next hmode => exact failsFirst_error .unsupportedTileMode ((tmOf_eq_none_iff _).1 hmode)
  · next t ht => exact failsFirst_pass (not_badMode_of_tmOf m t ht) (failsFirst_nil _)

/-- Settles O18: command by command, the checks of its result stand in the order of its causes. -/
theorem firstFailingCheckIsReported : Obligations.FirstFailingCheckIsReported := by
  intro i s
  cases i with
  | rdprof => exact reportsFirstFailure_of_failsFirst _ _ s (exec_rdprof s) (failsFirst_nil _)
  | fmtinfo c => exact reportsFirstFailure_of_failsFirst _ _ s (exec_fmtinfo c s) (fmtinfoResult_failsFirst c)
  | tmprop m => exact reportsFirstFailure_of_failsFirst _ _ s (exec_tmprop m s) (tmpropResult_failsFirst m)
  | tmresolve m w h d => exact tmresolve_reportsFirstFailure m w h d s
  | mtgeom m => exact reportsFirstFailure_of_failsFirst _ _ s (exec_mtgeom m s) (mtgeomResult_failsFirst m)
  | align m => exact reportsFirstFailure_of_failsFirst _ _ s (exec_align m s) (alignResult_failsFirst m)
  | bswidth m p => exact reportsFirstFailure_of_failsFirst _ _ s (exec_bswidth m p s) (bswidthResult_failsFirst m p)
  | surfinfo m w h d c =>
    exact reportsFirstFailure_of_failsFirst _ _ s (exec_surfinfo m w h d c s) (surfinfoResult_failsFirst m w h d c)
  | addrlin m a => exact reportsFirstFailure_of_failsFirst _ _ s (exec_addrlin m a s) (addrlinResult_failsFirst m a)
  | pixidx m x y z =>
    exact reportsFirstFailure_of_failsFirst _ _ s (exec_pixidx m x y z s) (pixidxResult_failsFirst m x y z)
  | addrmic m a => exact reportsFirstFailure_of_failsFirst _ _ s (exec_addrmic m a s) (addrmicResult_failsFirst m a)
  | pipebank m a =>
    exact reportsFirstFailure_of_failsFirst _ _ s (exec_pipebank m a s)
      (pipebankResult_eq_bind m a ▸ macroChecks_failsFirst m a _)
  | addrmac m a =>
    exact reportsFirstFailure_of_failsFirst _ _ s (exec_addrmac m a s)
      (addrmacResult_eq_bind m a ▸ macroChecks_failsFirst m a _)
  | swz m a => exact reportsFirstFailure_swz m a s
  | dswz m a => exact reportsFirstFailure_dswz m a s

/-! ### An exception has no other effect -/

theorem answer_eq_errResponse (op : Op) (r : Except Status (List Word)) (s : State)
    (h : (answer op r s).rsp.status ≠ 0x00#8) : answer op r s = errResponse op.code (answer op r s).rsp.status s := by
  cases r with
  | error c => rfl
  | ok ws => exact absurd rfl h

/-- A SWZ or DSWZ that RESET cuts off is not in SEND, and one that runs to its end has STATUS OK. -/
theorem runSwz_eq_errResponse (op : Op) (d : Dir) (m : MWord) (a : SwzArgs) (s : State)
    (hp : (runSwz op d m a s).phase = .send) (h : (runSwz op d m a s).rsp.status ≠ 0x00#8) :
    runSwz op d m a s = errResponse op.code (runSwz op d m a s).rsp.status s := by
  obtain ⟨c, -, he⟩ | ⟨j, u, -, -, he⟩ | ⟨j, u, -, -, he⟩ := runSwz_cases op d m a s <;> rw [he] at hp h ⊢
  · rfl
  · cases hp
  · exact absurd rfl h

/-- Settles O20: by the two shapes of a command's meaning. -/
theorem exceptionHasNoOtherEffect : Obligations.ExceptionHasNoOtherEffect := by
  intro i s t h hp hstatus
  obtain ⟨r, he⟩ | ⟨d, m, a, he⟩ := exec_shape i <;> cases (he s).symm.trans h
  · exact answer_eq_errResponse i.op r s hstatus
  · exact runSwz_eq_errResponse i.op d m a s hp hstatus

/-! ### Operands that raise each status of the matrix -/

/-- An M-word that is legal for a command whose modes include `mode`, but for the field that the status `c` is about. -/
def faultyMWord (mode : BitVec 5) (c : BitVec 8) : MWord where
  tileMode := if c = 0x03#8 then 17#5 else mode
  dim := 1#3
  mipLevel := 0#4
  sampleCount := if c = 0x04#8 then 0#4 else 1#4
  isDepthBuffer := 0#1
  pipeSwizzle := 0#1
  bankSwizzle := 0#2
  isBC := 0#1
  rsv := if c = 0x01#8 then 1#3 else 0#3
  bpp := if c = 0x07#8 then 0#8 else 8#8

/-- A dimension: zero to raise InvalidDimensions, the largest one to raise Overflow. -/
def faultyExtent (c : BitVec 8) : Word := if c = 0x05#8 then 0#32 else if c = 0x08#8 then 0xFFFFFFFF#32 else 1#32

/-- A format code: one off the table to raise UnsupportedFormat. -/
def faultyFormat (c : BitVec 8) : Word := if c = 0x02#8 then 0#32 else 1#32

/-- Operands of format A: the extents make the largest surface to raise Overflow. -/
def faultyAddrArgs (c : BitVec 8) : AddrArgs where
  x := 0#32
  y := 0#32
  slice := faultyExtent c
  sample := 0#32
  pitch := faultyExtent c
  height := faultyExtent c
  depthSlices := 1#32

/-- Operands of format S with empty buffers. -/
def faultySwzArgs (c : BitVec 8) : SwzArgs where
  width := faultyExtent c
  height := 1#32
  pitch := 1#32
  surfHeight := 1#32
  surfDepth := 1#32
  swizzleValue := 0#32
  linBase := 0#32
  linLen := 0#32
  tiledBase := 0#32
  tiledLen := 0#32

/-- A command whose operands are legal, but for the one that the status `c` is about. Mode 4 is legal for every command but
ADDRMIC. -/
def faultyInstr (c : BitVec 8) : Op → Instr
  | .rdprof => .rdprof
  | .fmtinfo => .fmtinfo (faultyFormat c)
  | .tmprop => .tmprop (faultyMWord 4#5 c)
  | .tmresolve => .tmresolve (faultyMWord 4#5 c) 1#32 1#32 1#32
  | .mtgeom => .mtgeom (faultyMWord 4#5 c)
  | .align => .align (faultyMWord 4#5 c)
  | .bswidth => .bswidth (faultyMWord 4#5 c) (faultyExtent c)
  | .surfinfo => .surfinfo (faultyMWord 4#5 c) (faultyExtent c) 1#32 1#32 (faultyFormat c)
  | .addrlin => .addrlin (faultyMWord 4#5 c) (faultyAddrArgs c)
  | .pixidx => .pixidx (faultyMWord 4#5 c) 0#32 0#32 0#32
  | .addrmic => .addrmic (faultyMWord 2#5 c) (faultyAddrArgs c)
  | .pipebank => .pipebank (faultyMWord 4#5 c) (faultyAddrArgs c)
  | .addrmac => .addrmac (faultyMWord 4#5 c) (faultyAddrArgs c)
  | .swz => .swz (faultyMWord 4#5 c) (faultySwzArgs c)
  | .dswz => .dswz (faultyMWord 4#5 c) (faultySwzArgs c)

theorem faultyInstr_op (c : BitVec 8) (op : Op) : (faultyInstr c op).op = op := by cases op <;> rfl

section Fields

variable (t : BitVec 5) (c : BitVec 8)

@[simp] theorem rsv_faultyMWord : (faultyMWord t c).rsv = 0#3 ↔ c ≠ 0x01#8 := by simp [faultyMWord]

@[simp] theorem sampleCount_faultyMWord_eq_zero : (faultyMWord t c).sampleCount = 0#4 ↔ c = 0x04#8 := by
  simp [faultyMWord]

@[simp] theorem sampleCount_faultyMWord_eq_one : (faultyMWord t c).sampleCount = 1#4 ↔ c ≠ 0x04#8 := by
  simp [faultyMWord]

@[simp] theorem bpp_faultyMWord_eq_zero : (faultyMWord t c).bpp = 0#8 ↔ c = 0x07#8 := by simp [faultyMWord]

@[simp] theorem mipLevel_faultyMWord : (faultyMWord t c).mipLevel = 0#4 := rfl

@[simp] theorem faultyExtent_eq_zero : faultyExtent c = 0#32 ↔ c = 0x05#8 := by
  unfold faultyExtent
  split
  · next hc => exact iff_of_true rfl hc
  · next hc => exact iff_of_false (by split <;> decide) hc

@[simp] theorem knownFormat_faultyFormat : knownFormat (faultyFormat c) ↔ c ≠ 0x02#8 := by
  unfold faultyFormat
  split
  · next hc => exact iff_of_false (by simp [knownFormat]) (not_not.2 hc)
  · next hc => exact iff_of_true (by simp [knownFormat]) hc

variable {t}

/-- The mode is outside the modes of a command, or none at all, only for the status that is about it. -/
theorem modeOutside_faultyMWord {lo hi : Nat} (hlo : lo ≤ t.toNat) (hhi : t.toNat ≤ hi) (hi17 : hi < 17) :
    modeOutside (faultyMWord t c) lo hi ↔ c = 0x03#8 := by
  simp only [modeOutside, faultyMWord]
  split
  · next hc => exact iff_of_true (.inr hi17) hc
  · next hc => exact iff_of_false (by omega) hc

theorem badMode_faultyMWord (ht : t.toNat < 17) : badMode (faultyMWord t c) ↔ c = 0x03#8 := by
  rw [← modeOutside_faultyMWord c (Nat.zero_le _) (Nat.lt_succ_iff.1 ht) (Nat.lt_succ_self 16), badMode, modeOutside]
  omega

end Fields

/-- InvalidDimensions of SWZ and DSWZ: the width is the faulty extent. -/
theorem invalidDimensions_faultySwzArgs (c : BitVec 8) :
    ((faultySwzArgs c).width = 0#32 ∨ (faultySwzArgs c).height = 0#32 ∨ (faultySwzArgs c).pitch = 0#32) ↔ c = 0x05#8 := by
  simp [faultySwzArgs]

/-- BadOperand of SWZ and DSWZ: empty buffers are never bad (R192). -/
theorem badOperand_faultySwzArgs (c : BitVec 8) :
    ((faultyMWord 4#5 c).bpp.toNat < 8 ∨ (faultyMWord 4#5 c).bpp.toNat % 8 ≠ 0 ∨ buffersBad (faultySwzArgs c)) ↔
      c = 0x07#8 := by
  by_cases hc : c = 0x07#8 <;> simp [faultyMWord, buffersBad, faultySwzArgs, hc]

/-! ### The first cause that applies to them -/

/-- R217: the causes of every command stand in the ascending order of their codes. -/
theorem causes_ascending (i : Instr) : ((causes i).map Prod.fst).Pairwise (· < ·) := by
  cases i <;> simp [causes]

/-- R218: the codes of a command's causes are its row of the matrix without Overflow. -/
theorem causes_codes (i : Instr) : (causes i).map Prod.fst = (matrixRow i.op).filter (· ≠ 0x08#8) := by
  cases i <;> rfl

/-- The cause `p` does not stand in the way of the status `c`: it applies if `c` is its code, and not if `c` comes after
it. -/
def LeadsTo (c : BitVec 8) (p : BitVec 8 × Prop) : Prop := (p.1 = c → p.2) ∧ (p.2 → c ≤ p.1)

theorem leadsTo_eq (c d : BitVec 8) : LeadsTo c (d, c = d) := ⟨Eq.symm, fun h => BitVec.le_of_eq h⟩

/-- BadOperand of the commands that want certain modes: a field that names no mode at all is UnsupportedTileMode before. -/
theorem leadsTo_badOperand (c : BitVec 8) : LeadsTo c (0x07#8, c = 0x03#8 ∨ c = 0x07#8) := by
  refine ⟨fun h => .inr h.symm, ?_⟩
  rintro (rfl | rfl) <;> decide

/-- Among causes in ascending order of which each leads to `c`, the one of code `c` is the first that applies. -/
theorem firstCause_of_leadsTo {c : BitVec 8} {cs : List (BitVec 8 × Prop)} (hasc : (cs.map Prod.fst).Pairwise (· < ·))
    (hc : c ∈ cs.map Prod.fst) (h : ∀ p ∈ cs, LeadsTo c p) : firstCause cs c := by
  induction cs with
  | nil => cases hc
  | cons p cs ih =>
    rw [List.map_cons, List.pairwise_cons] at hasc
    obtain ⟨hfirst, hasc⟩ := hasc
    obtain ⟨⟨happlies, hafter⟩, hrest⟩ := List.forall_mem_cons.1 h
    obtain heq | hmem := List.mem_cons.1 hc
    · exact .inl ⟨happlies heq.symm, heq⟩
    · exact .inr ⟨fun hp => absurd (hafter hp) (BitVec.not_le.2 (hfirst c hmem)), ih hasc hmem hrest⟩

theorem leadsTo_causes_faultyInstr (c : BitVec 8) (op : Op) : ∀ p ∈ causes (faultyInstr c op), LeadsTo c p := by
  cases op <;> simp [causes, faultyInstr, faultyAddrArgs, leadsTo_eq, leadsTo_badOperand, badMode_faultyMWord,
    modeOutside_faultyMWord, invalidDimensions_faultySwzArgs, badOperand_faultySwzArgs]

theorem exec_faultyInstr_of_cause (c : BitVec 8) (op : Op) (s : State) (hc : c ∈ matrixRow op) (hne : c ≠ 0x08#8) :
    exec (faultyInstr c op) s = .next (errResponse op.code c s) := by
  have hcode : c ∈ (causes (faultyInstr c op)).map Prod.fst := by
    rw [causes_codes, faultyInstr_op]
    exact List.mem_filter.2 ⟨hc, decide_eq_true hne⟩
  have hfirst := firstCause_of_leadsTo (causes_ascending _) hcode (leadsTo_causes_faultyInstr c op)
  rw [firstFailingCheckIsReported _ s c hfirst, faultyInstr_op]

/-- The four commands that can raise Overflow raise it on the largest extents. -/
theorem exec_faultyInstr_overflow (op : Op) (s : State) (h : 0x08#8 ∈ matrixRow op) :
    exec (faultyInstr 0x08#8 op) s = .next (errResponse op.code 0x08#8 s) := by
  cases op with
  | surfinfo | addrlin | addrmic | addrmac => rfl
  | _ => exact absurd h (by decide)

/-- Settles O19: a response has STATUS OK or one of the row, and `faultyInstr` raises each status of the row. -/
theorem exceptionMatrixIsExact : Obligations.ExceptionMatrixIsExact := by
  constructor
  · intro i s t h hp hstatus
    obtain ⟨hrow, -, -⟩ | ⟨hok, -, -⟩ := (exec_commandRsp i s t h hp).1
    · exact hrow
    · exact absurd hok hstatus
  · intro op c hc
    refine ⟨faultyInstr c op, State.reset, errResponse op.code c State.reset, faultyInstr_op c op, ?_, rfl, rfl⟩
    by_cases hne : c = 0x08#8
    · subst hne
      exact exec_faultyInstr_overflow op State.reset hc
    · exact exec_faultyInstr_of_cause c op State.reset hc hne

end Sys2Proof.Machine

/-! SUPPORT. The proofs of the statements of spec/70_reset_and_hazards.md: what RESET drops and leaves (R230, R231), where it
cuts a SWZ or DSWZ off (R231, R47), and that a waiting block changes nothing (R235, R237). -/

namespace Sys2Proof.Machine

open Sys2Proof

/-! ### RESET asserted, and a block that waits -/

/-- Settles O9: the step is `inReset`, the first of the cases of a step. -/
theorem resetInputDropsTheCommand : Obligations.ResetInputDropsTheCommand := by
  intro s hr
  obtain ⟨-, he⟩ | ⟨hr', -⟩ | ⟨hr', -⟩ | ⟨hr', -⟩ | ⟨hr', -⟩ := step_cases s
  · exact ⟨inReset s, he, rfl, rfl, rfl, hr, rfl, rfl, rfl⟩
  all_goals exact absurd (hr.symm.trans hr') nofun

theorem takeHeader_of_empty (s : State) (hq : s.cmdQ = []) : takeHeader s = s := by
  obtain ⟨-, he⟩ | ⟨w, ws, hq', -⟩ | ⟨w, ws, op, hq', -⟩ := takeHeader_cases s
  · exact he
  all_goals exact absurd (hq.symm.trans hq') nofun

theorem takeOperand_of_empty (op : Op) (s : State) (hq : s.cmdQ = []) : takeOperand op s = s := by
  obtain ⟨-, he⟩ | ⟨w, ws, hq', -⟩ := takeOperand_cases op s
  · exact he
  · exact absurd (hq.symm.trans hq') nofun

theorem drain_of_not_ready (s : State) (h : s.rspReady = false) : drain s = s := by
  obtain ⟨-, he⟩ | ⟨hr, -⟩ | ⟨w, hr, -⟩ | ⟨w, w', ws, hr, -⟩ := drain_cases s
  · exact he
  all_goals exact absurd (h.symm.trans hr) nofun

/-- Settles O10: in each PHASE the one operation `step` runs there waits; the invariant gives RECV its opcode. -/
theorem waitingBlockChangesNothing : Obligations.WaitingBlockChangesNothing := by
  rintro s hs hr (⟨hp | hp, hq⟩ | ⟨hp, hready⟩)
  · rw [step_of_idle s hr hp, takeHeader_of_empty s hq]
  · obtain ⟨-, -, op, hop, -⟩ := (phaseInv_of_recv s hp).1 hs.phase
    rw [step_of_recv s op hr hp hop, takeOperand_of_empty op s hq]
  · rw [step_of_send s hr hp, drain_of_not_ready s hready]

/-! ### A host that asserts RESET before byte access number `n`, and does nothing else -/

/-- `s` with a host that leaves `n` byte accesses alone and asserts RESET in the turn after them. -/
def withResetAfter (n : Nat) (rest : List (List HostAct)) (s : State) : State :=
  { s with hostTurns := List.replicate n [] ++ [.assertReset] :: rest }

/-- `s` when the host's turn with RESET has come. -/
def resetAsserted (rest : List (List HostAct)) (s : State) : State := { s with hostTurns := rest, resetIn := true }

@[simp] theorem withResetAfter_mem (n : Nat) (rest : List (List HostAct)) (s : State) :
    (withResetAfter n rest s).mem = s.mem := rfl

@[simp] theorem withResetAfter_loop (n : Nat) (rest : List (List HostAct)) (s : State) :
    (withResetAfter n rest s).loop = s.loop := rfl

@[simp] theorem withResetAfter_resetIn (n : Nat) (rest : List (List HostAct)) (s : State) :
    (withResetAfter n rest s).resetIn = s.resetIn := rfl

@[simp] theorem resetAsserted_resetIn (rest : List (List HostAct)) (s : State) :
    (resetAsserted rest s).resetIn = true := rfl

@[simp] theorem hostTurn_withResetAfter_zero (rest : List (List HostAct)) (s : State) :
    hostTurn (withResetAfter 0 rest s) = resetAsserted rest s := rfl

@[simp] theorem hostTurn_withResetAfter_succ (n : Nat) (rest : List (List HostAct)) (s : State) :
    hostTurn (withResetAfter (n + 1) rest s) = withResetAfter n rest s := rfl

/-! ### The two memory primitives up to RESET -/

section UpToReset

variable (rest : List (List HostAct)) (s : State)

/-- A read of `len` bytes that RESET comes after. -/
theorem memRead_before_reset (a len n : Nat) (hr : s.resetIn = false) :
    memRead a len (withResetAfter (len + n) rest s) = .ok (memGetSpan s.mem a len, withResetAfter n rest s) := by
  induction len generalizing a with
  | zero => rw [Nat.zero_add]; rfl
  | succ len ih =>
    rw [Nat.add_right_comm]
    simp [memRead, hr, ih, memGetSpan]

/-- A read that RESET cuts off. -/
theorem memRead_cut (a len n : Nat) (hr : s.resetIn = false) (hn : n < len) :
    memRead a len (withResetAfter n rest s) = .error (resetAsserted rest s) := by
  induction len generalizing a n with
  | zero => omega
  | succ len ih =>
    cases n with
    | zero => simp [memRead]
    | succ n => simp [memRead, hr, ih (a + 1) n (by omega)]

/-- A byte written in a turn of the host without RESET. -/
theorem memWrite_cons_of_withResetAfter (a : Nat) (b : Byte) (bs : List Byte) (n : Nat) (hr : s.resetIn = false) :
    memWrite a (b :: bs) (withResetAfter (n + 1) rest s) =
      memWrite (a + 1) bs (withResetAfter n rest { s with mem := memSet s.mem a b }) :=
  if_neg (Bool.eq_false_iff.1 hr)

/-- A write that RESET comes after. -/
theorem memWrite_before_reset (a : Nat) (bs : List Byte) (n : Nat) (hr : s.resetIn = false) :
    memWrite a bs (withResetAfter (bs.length + n) rest s) =
      .ok (withResetAfter n rest { s with mem := memSetSpan s.mem a bs }) := by
  induction bs generalizing a s with
  | nil => rw [List.length_nil, Nat.zero_add]; rfl
  | cons b bs ih =>
    rw [List.length_cons, Nat.add_right_comm, memWrite_cons_of_withResetAfter rest s a b bs _ hr]
    exact ih { s with mem := memSet s.mem a b } (a + 1) hr

/-- A write that RESET cuts off: the first `n` bytes are stored (R231). -/
theorem memWrite_cut (a : Nat) (bs : List Byte) (n : Nat) (hr : s.resetIn = false) (hn : n < bs.length) :
    memWrite a bs (withResetAfter n rest s) =
      .error (resetAsserted rest { s with mem := memSetSpan s.mem a (bs.take n) }) := by
  induction bs generalizing a n s with
  | nil => exact absurd hn (Nat.not_lt_zero n)
  | cons b bs ih =>
    cases n with
    | zero => simp [memWrite, memSetSpan]
    | succ n =>
      rw [memWrite_cons_of_withResetAfter rest s a b bs n hr]
      exact ih { s with mem := memSet s.mem a b } (a + 1) n hr (Nat.lt_of_succ_lt_succ hn)

/-! ### One element up to RESET -/

/-- An element that RESET comes after is copied or skipped as it is beside a quiet host. -/
theorem oneElement_before_reset (hw : Config.Profile) (d : Dir) (j : Job) (n : Nat) (hr : s.resetIn = false) :
    oneElement hw d j (withResetAfter ((if inBounds hw j s.loop.x s.loop.y then j.n + j.n else 0) + n) rest s) =
      .ok (withResetAfter n rest (quietElement hw d j s)) := by
  unfold oneElement quietElement
  by_cases hin : inBounds hw j s.loop.x s.loop.y = true
  · have hwrite := memWrite_before_reset rest s (dstAddr hw d j s.loop.x s.loop.y)
      (memGetSpan s.mem (srcAddr hw d j s.loop.x s.loop.y) j.n) n hr
    rw [memGetSpan_length] at hwrite
    simp only [withResetAfter_loop, if_pos hin, Nat.add_assoc, memRead_before_reset rest s _ _ _ hr, hwrite]
    rfl
  · simp only [withResetAfter_loop, if_neg hin, Nat.zero_add]
    rfl

/-- An element that RESET cuts off before its access number `n`: the reads come first, so `n - j.n` of its bytes have been
written. -/
theorem oneElement_cut (hw : Config.Profile) (d : Dir) (j : Job) (n : Nat) (hr : s.resetIn = false)
    (hin : inBounds hw j s.loop.x s.loop.y = true) (hn : n < j.n + j.n) :
    oneElement hw d j (withResetAfter n rest s) =
      .error (resetAsserted rest { s with
        mem := memSetSpan s.mem (dstAddr hw d j s.loop.x s.loop.y)
          ((memGetSpan s.mem (srcAddr hw d j s.loop.x s.loop.y) j.n).take (n - j.n)) }) := by
  by_cases hread : n < j.n
  · simp only [oneElement, withResetAfter_loop, if_pos hin, memRead_cut rest s _ _ n hr hread,
      Nat.sub_eq_zero_of_le hread.le]
    rfl
  · obtain ⟨n, rfl⟩ := Nat.exists_eq_add_of_le (Nat.le_of_not_lt hread)
    have hwrite := memWrite_cut rest s (dstAddr hw d j s.loop.x s.loop.y)
      (memGetSpan s.mem (srcAddr hw d j s.loop.x s.loop.y) j.n) n hr (by rw [memGetSpan_length]; omega)
    simp only [oneElement, withResetAfter_loop, if_pos hin, memRead_before_reset rest s _ _ n hr, hwrite,
      Nat.add_sub_cancel_left]

end UpToReset

/-! ### What a prefix of the accesses leaves in memory -/

theorem applyAccesses_append (m₀ : Memory) (as bs : List (Option (Nat × Nat))) (m : Memory) :
    applyAccesses m₀ (as ++ bs) m = applyAccesses m₀ bs (applyAccesses m₀ as m) := List.foldl_append

theorem applyAccesses_reads (m₀ : Memory) (n : Nat) (m : Memory) : applyAccesses m₀ (List.replicate n none) m = m := by
  induction n with
  | zero => rfl
  | succ n ih => exact ih

/-- The writes of `n` bytes in ascending order are a write over the span (R43). -/
theorem applyAccesses_writes (m₀ : Memory) (dst src n : Nat) (m : Memory) :
    applyAccesses m₀ ((List.range n).map fun i => some (dst + i, src + i)) m =
      memSetSpan m dst (memGetSpan m₀ src n) := by
  induction n generalizing dst src m with
  | zero => rfl
  | succ n ih =>
    have hshift : (fun i => some (dst + i, src + i)) ∘ Nat.succ = fun i => some (dst + 1 + i, src + 1 + i) := by
      funext i
      simp only [Function.comp_apply, Nat.succ_eq_add_one, Nat.add_assoc, Nat.add_comm 1]
    rw [List.range_succ_eq_map, List.map_cons, List.map_map, hshift]
    exact ih (dst + 1) (src + 1) (memSet m dst (memGet m₀ src))

theorem take_memGetSpan (m : Memory) (a n p : Nat) : (memGetSpan m a n).take p = memGetSpan m a (min p n) := by
  induction n generalizing a p with
  | zero => rw [Nat.min_zero]; exact List.take_nil
  | succ n ih =>
    cases p with
    | zero => rw [Nat.zero_min]; rfl
    | succ p => rw [Nat.succ_min_succ, memGetSpan, List.take_succ_cons, ih]; rfl

/-- The first `n` accesses of a copied element: its reads come first, and they leave the memory alone. -/
theorem applyAccesses_take_element (m₀ : Memory) (d : Dir) (j : Job) (k n : Nat) (m : Memory) (hin : elemIn j k = true) :
    applyAccesses m₀ ((elemAccesses d j k).take n) m =
      memSetSpan m (elemDst d j k) ((memGetSpan m₀ (elemSrc d j k) j.n).take (n - j.n)) := by
  rw [elemAccesses, if_pos hin, List.take_append, List.length_replicate, applyAccesses_append, List.take_replicate,
    applyAccesses_reads, ← List.map_take, List.take_range, applyAccesses_writes, take_memGetSpan]

/-! ### The loop up to RESET -/

section Loop

variable (d : Dir) (j : Job) (s : State)

/-- A copied element finds at its source what was there when the command began: no element is copied onto it. -/
theorem afterElements_source (k : Nat) (hs : QuietStart j s) (hk : k ≤ j.wI * j.hI) (hin : elemIn j k = true) :
    memGetSpan (afterElements d j s k).mem (elemSrc d j k) j.n = memGetSpan s.mem (elemSrc d j k) j.n := by
  refine memGetSpan_congr _ _ _ _ fun b hlo hhi => afterElements_kept d j s k b hs hk fun k' => ?_
  obtain ⟨i, rfl⟩ := Nat.exists_eq_add_of_le hlo
  exact source_not_covered d j k k' i hs.apart hin (by omega)

/-- An element makes its accesses (R47, R195). -/
theorem applyAccesses_element (k : Nat) (hs : QuietStart j s) (hk : k < j.wI * j.hI) :
    applyAccesses s.mem (elemAccesses d j k) (afterElements d j s k).mem = (afterElements d j s (k + 1)).mem := by
  rw [afterElements_succ_mem d j s k hs hk]
  by_cases hin : elemIn j k = true
  · have hall := applyAccesses_take_element s.mem d j k (j.n + j.n) (afterElements d j s k).mem hin
    rw [List.take_of_length_le (by rw [length_elemAccesses, if_pos hin]), Nat.add_sub_cancel,
      List.take_of_length_le (memGetSpan_length _ _ _).le] at hall
    rw [hall, if_pos hin, afterElements_source d j s k hs hk.le hin]
  · rw [elemAccesses, if_neg hin, if_neg hin]
    rfl

/-- Element `k` when RESET comes after its accesses. -/
theorem oneElement_afterElements_before_reset (rest : List (List HostAct)) (k n : Nat) (hs : QuietStart j s)
    (hk : k < j.wI * j.hI) :
    oneElement profile d j (withResetAfter ((elemAccesses d j k).length + n) rest (afterElements d j s k)) =
      .ok (withResetAfter n rest (afterElements d j s (k + 1))) := by
  obtain ⟨hloop, _, hbeside⟩ := afterElements_beside d j s k hs hk.le
  have hone := oneElement_before_reset rest (afterElements d j s k) profile d j n hbeside.resetFree.released
  rw [hloop, ← afterElements_succ] at hone
  rw [length_elemAccesses]
  exact hone

/-- Element `k` when RESET comes before its access number `n`: the accesses before it have been made, and no other. -/
theorem oneElement_afterElements_cut (rest : List (List HostAct)) (k n : Nat) (hs : QuietStart j s)
    (hk : k < j.wI * j.hI) (hn : n < (elemAccesses d j k).length) :
    ∃ t, oneElement profile d j (withResetAfter n rest (afterElements d j s k)) = .error t ∧
      t.mem = applyAccesses s.mem ((elemAccesses d j k).take n) (afterElements d j s k).mem := by
  have hin : elemIn j k = true := by
    by_contra hout
    rw [length_elemAccesses, if_neg hout] at hn
    exact Nat.not_lt_zero n hn
  rw [length_elemAccesses, if_pos hin] at hn
  obtain ⟨hloop, _, hbeside⟩ := afterElements_beside d j s k hs hk.le
  have hone := oneElement_cut rest (afterElements d j s k) profile d j n hbeside.resetFree.released
    (by rw [hloop]; exact hin) hn
  rw [hloop] at hone
  refine ⟨_, hone, ?_⟩
  rw [applyAccesses_take_element _ d j k n _ hin, ← afterElements_source d j s k hs hk.le hin]
  rfl

/-- The elements from `k` on, when RESET cuts one of them off: their accesses before it have been made, and no other. -/
theorem elements_cut (rest : List (List HostAct)) (r k n : Nat) (hs : QuietStart j s) (hk : k + r ≤ j.wI * j.hI)
    (hn : n < ((List.range' k r).flatMap (elemAccesses d j)).length) :
    ∃ t, elements profile d j r (withResetAfter n rest (afterElements d j s k)) = .error t ∧
      t.mem = applyAccesses s.mem (((List.range' k r).flatMap (elemAccesses d j)).take n) (afterElements d j s k).mem := by
  induction r generalizing k n with
  | zero => exact absurd hn (Nat.not_lt_zero n)
  | succ r ih =>
    rw [List.range'_succ, List.flatMap_cons] at hn ⊢
    by_cases hhere : n < (elemAccesses d j k).length
    · obtain ⟨t, hone, hmem⟩ := oneElement_afterElements_cut d j s rest k n hs (by omega) hhere
      exact ⟨t, by simp only [elements, hone], by rw [List.take_append_of_le_length hhere.le, hmem]⟩
    · obtain ⟨n, rfl⟩ := Nat.exists_eq_add_of_le (Nat.le_of_not_lt hhere)
      have hone := oneElement_afterElements_before_reset d j s rest k n hs (by omega)
      rw [List.length_append, Nat.add_lt_add_iff_left] at hn
      obtain ⟨t, hrest, hmem⟩ := ih (k + 1) n (by omega) hn
      refine ⟨t, by simp only [elements, hone, hrest], ?_⟩
      rw [List.take_length_add_append, applyAccesses_append, applyAccesses_element d j s k hs (by omega), hmem]

end Loop

/-- Settles O53: the loop is cut off after its first `n` accesses, and what is cut off keeps the command's frame. -/
theorem resetCutsTheLoopAfterAPrefix : Obligations.ResetCutsTheLoopAfterAPrefix := by
  intro m a s t i d n rest hi hgood ht hr hturns hn hwf
  have hchecks := swzChecks_of_operandsGood m a t i (hi.imp And.left And.left) hgood ht
  have hexec : exec i s = .next (runSwz i.op d m a s) := by
    rcases hi with ⟨rfl, rfl⟩ | ⟨rfl, rfl⟩ <;> rfl
  have hquiet : QuietStart (jobOf m t a) { s with hostTurns := [] } :=
    ⟨⟨rfl, hr⟩, hwf, buffersFit_of_swzChecks m a _ hchecks, buffersApart_of_swzChecks m a _ hchecks⟩
  have hstart : startLoop s = withResetAfter n rest (afterElements d (jobOf m t a) { s with hostTurns := [] } 0) := by
    rw [withResetAfter, ← hturns]; rfl
  rw [loopAccesses, List.range_eq_range'] at hn ⊢
  obtain ⟨u, hloop, hmem⟩ := elements_cut d (jobOf m t a) _ rest _ 0 n hquiet (Nat.zero_add _).le hn
  rw [← hstart] at hloop
  have hrun : runSwz i.op d m a s = inReset u := by simp only [runSwz, hchecks, hloop]
  obtain ⟨hframe, hreset⟩ := (commandFrame_elements _ _ _ _ _).2 u hloop
  refine ⟨inReset u, by rw [hexec, hrun], rfl, rfl, hreset, ?_, hframe.cmdQ, hmem⟩
  rw [inReset_rspTaken, hframe]
  rfl

end Sys2Proof.Machine
